-- ==== Sys2Proof/Word.lean ====
section
/-! DEFINITION. The byte, the only datum of the machine (00_scope.md R8). -/
namespace Sys2Proof

/-- "an 8-bit unsigned value" (R8): every register, memory cell, stack cell, latch and operand. Bit 0 is the
least significant; `+` and `-` of `BitVec 8` wrap modulo 256 (R9). -/
abbrev Byte := BitVec 8

end Sys2Proof
end

