-- ==== Sys2Proof/Config.lean ====
section
/-! DEFINITION. What is fixed for the machine (00_scope.md R5, 10_state.md R51): its sizes, and the type of the
parameter `OPCODE_MAP`. The default numbering stands with the decoder (Decode.lean). There is no free value: under the
spec "every instruction in every state has one defined outcome" (93_implementation_defined.md section 2). -/
namespace Sys2Proof

namespace Config

/-- `N_BANKS` (R5). -/
def nBanks : Nat := 256
/-- `BANK_SIZE` (R5). -/
def bankSize : Nat := 256
/-- Total banked memory in bytes (R5); also the largest `PROG_LEN` and the longest image `load` accepts. -/
def memSize : Nat := nBanks * bankSize
/-- `STACK_SIZE` (R5). -/
def stackSize : Nat := 256
/-- `INSTR_BYTES` (R5). -/
def instrBytes : Nat := 2
/-- The first of the four `DISPLAY_BANKS` 251 to 254 (R5, 20_memory.md R72). -/
def firstDisplayBank : Byte := 251

end Config

/-- The 41 operations by name, the domain of `OPCODE_MAP` (30_encoding.md R100). -/
inductive Opcode where
  | nop
  | soi
  | sor
  | addi
  | addr
  | subi
  | subr
  | ldi
  | cpy
  | wrp
  | rdp
  | lsl
  | lsr
  | jmpi
  | jmpr
  | jei
  | jer
  | jnei
  | jner
  | cmpi
  | cmpr
  | mri
  | mrr
  | mwi
  | mwr
  | pushi
  | pushr
  | pop
  | incb
  | decb
  | incr
  | decr
  | andi
  | andr
  | ori
  | orr
  | xori
  | xorr
  | not
  | bsi
  | bsr
  deriving DecidableEq, Repr

/-- All operations, in the order of R100. -/
def Opcode.all : List Opcode :=
  [.nop, .soi, .sor, .addi, .addr, .subi, .subr, .ldi, .cpy, .wrp, .rdp] ++
  [.lsl, .lsr, .jmpi, .jmpr, .jei, .jer, .jnei, .jner, .cmpi, .cmpr] ++
  [.mri, .mrr, .mwi, .mwr, .pushi, .pushr, .pop, .incb, .decb, .incr, .decr] ++
  [.andi, .andr, .ori, .orr, .xori, .xorr, .not, .bsi, .bsr]

/-- The parameter `OPCODE_MAP`: the opcode byte of each operation (30_encoding.md R101). -/
abbrev OpcodeMap := Opcode → Byte

end Sys2Proof
end

