-- ==== Sys2Proof/Syntax.lean ====
section
/-! DEFINITION. The instructions, one constructor per row of the opcode table (30_encoding.md R100). Each carries its own
operand byte whole (R90: "There are no sub-fields"); the second operand of a two-operand instruction is no part of it:
it is what DR2 holds when the instruction executes (R99). -/
namespace Sys2Proof

inductive Instr where
  /-- NOP: the operand byte is ignored (R120). -/
  | nop (o : Byte)
  /-- SOI: DR2 takes the value (R121). -/
  | soi (v : Byte)
  /-- SOR: DR2 takes the register code, unchecked (R122). -/
  | sor (c : Byte)
  /-- ADDI: A + value (R130). -/
  | addi (v : Byte)
  /-- ADDR: A + register (R131). -/
  | addr (rs : Byte)
  /-- SUBI: A - value (R132). -/
  | subi (v : Byte)
  /-- SUBR: A - register (R133). -/
  | subr (rs : Byte)
  /-- LDI: register <- DR2 (R140). -/
  | ldi (rd : Byte)
  /-- CPY: register <- register coded by DR2 (R141). -/
  | cpy (rd : Byte)
  /-- WRP: Mem[BI][P] <- register (R150). -/
  | wrp (rs : Byte)
  /-- RDP: register <- Mem[BI][P] (R151). -/
  | rdp (rd : Byte)
  /-- LSL: shift left by one (R161). -/
  | lsl (r : Byte)
  /-- LSR: shift right by one (R162). -/
  | lsr (r : Byte)
  /-- JMPI: jump to (DR2, address) (R170). -/
  | jmpi (a : Byte)
  /-- JMPR: jump to (bank in the register coded by DR2, address in the register) (R171). -/
  | jmpr (ra : Byte)
  /-- JEI: JMPI if EQUAL (R172). -/
  | jei (a : Byte)
  /-- JER: JMPR if EQUAL (R173). -/
  | jer (ra : Byte)
  /-- JNEI: JMPI if not EQUAL (R174). -/
  | jnei (a : Byte)
  /-- JNER: JMPR if not EQUAL (R175). -/
  | jner (ra : Byte)
  /-- CMPI: EQUAL <- register = DR2 (R180). -/
  | cmpi (r : Byte)
  /-- CMPR: EQUAL <- register = register coded by DR2 (R181). -/
  | cmpr (r : Byte)
  /-- MRI: register <- Mem[BI][DR2] (R190). -/
  | mri (rd : Byte)
  /-- MRR: register <- Mem[BI][register coded by DR2] (R191). -/
  | mrr (rd : Byte)
  /-- MWI: Mem[BI][DR2] <- register (R192). -/
  | mwi (rs : Byte)
  /-- MWR: Mem[BI][register coded by DR2] <- register (R193). -/
  | mwr (rs : Byte)
  /-- PUSHI: push the value (R200). -/
  | pushi (v : Byte)
  /-- PUSHR: push the register, then zero it (R201). -/
  | pushr (r : Byte)
  /-- POP: pop into B; the operand byte is ignored (R202). -/
  | pop (o : Byte)
  /-- INCB: Mem[BI][P] + 1; the operand byte is ignored (R210). -/
  | incb (o : Byte)
  /-- DECB: Mem[BI][P] - 1; the operand byte is ignored (R211). -/
  | decb (o : Byte)
  /-- INCR: register + 1 (R212). -/
  | incr (r : Byte)
  /-- DECR: register - 1 (R213). -/
  | decr (r : Byte)
  /-- ANDI: register coded by DR2 AND value (R220). -/
  | andi (v : Byte)
  /-- ANDR: register coded by DR2 AND register (R221). -/
  | andr (rs : Byte)
  /-- ORI: register coded by DR2 OR value (R222). -/
  | ori (v : Byte)
  /-- ORR: register coded by DR2 OR register (R223). -/
  | orr (rs : Byte)
  /-- XORI: register coded by DR2 XOR value (R224). -/
  | xori (v : Byte)
  /-- XORR: register coded by DR2 XOR register (R225). -/
  | xorr (rs : Byte)
  /-- NOT: complement the register (R226). -/
  | not (r : Byte)
  /-- BSI: BI <- value (R227). -/
  | bsi (b : Byte)
  /-- BSR: BI <- register (R228). -/
  | bsr (r : Byte)
  deriving DecidableEq, Repr

end Sys2Proof
end

