-- ==== Sys2Proof/WellFormed.lean ====
section
/-! DEFINITION. The operand roles of 30_encoding.md R99 and the checks that rest on them. `Instr.wf` is R103's
restriction: "Operand values are restricted only where the operand is a register code (1 to 7; otherwise
`InvalidRegister`)". An instruction that fails it still decodes and still executes: it raises InvalidRegister (log 11). -/
namespace Sys2Proof

/-- What an operation does with a latch (R99). -/
inductive OperandRole where
  /-- not read -/
  | notRead
  /-- an immediate byte -/
  | value
  /-- a register code, resolved by 00_scope.md R11 -/
  | code
  /-- the operand byte is loaded and not looked at -/
  | ignored
  /-- DR1 of SOI and SOR: not loaded -/
  | notLoaded
  /-- DR2 of NOP -/
  | cleared
  /-- DR2 of SOI and SOR -/
  | written
  deriving DecidableEq, Repr

/-- R99, the column DR1 (the instruction's own operand byte). -/
def Instr.dr1Role : Instr → OperandRole
  | .nop _ => .ignored
  | .soi _ => .notLoaded
  | .sor _ => .notLoaded
  | .addi _ => .value
  | .addr _ => .code
  | .subi _ => .value
  | .subr _ => .code
  | .ldi _ => .code
  | .cpy _ => .code
  | .wrp _ => .code
  | .rdp _ => .code
  | .lsl _ => .code
  | .lsr _ => .code
  | .jmpi _ => .value
  | .jmpr _ => .code
  | .jei _ => .value
  | .jer _ => .code
  | .jnei _ => .value
  | .jner _ => .code
  | .cmpi _ => .code
  | .cmpr _ => .code
  | .mri _ => .code
  | .mrr _ => .code
  | .mwi _ => .code
  | .mwr _ => .code
  | .pushi _ => .value
  | .pushr _ => .code
  | .pop _ => .ignored
  | .incb _ => .ignored
  | .decb _ => .ignored
  | .incr _ => .code
  | .decr _ => .code
  | .andi _ => .value
  | .andr _ => .code
  | .ori _ => .value
  | .orr _ => .code
  | .xori _ => .value
  | .xorr _ => .code
  | .not _ => .code
  | .bsi _ => .value
  | .bsr _ => .code

/-- R99, the column DR2 (the operand latch). -/
def Instr.dr2Role : Instr → OperandRole
  | .nop _ => .cleared
  | .soi _ => .written
  | .sor _ => .written
  | .addi _ => .notRead
  | .addr _ => .notRead
  | .subi _ => .notRead
  | .subr _ => .notRead
  | .ldi _ => .value
  | .cpy _ => .code
  | .wrp _ => .notRead
  | .rdp _ => .notRead
  | .lsl _ => .notRead
  | .lsr _ => .notRead
  | .jmpi _ => .value
  | .jmpr _ => .code
  | .jei _ => .value
  | .jer _ => .code
  | .jnei _ => .value
  | .jner _ => .code
  | .cmpi _ => .value
  | .cmpr _ => .code
  | .mri _ => .value
  | .mrr _ => .code
  | .mwi _ => .value
  | .mwr _ => .code
  | .pushi _ => .notRead
  | .pushr _ => .notRead
  | .pop _ => .notRead
  | .incb _ => .notRead
  | .decb _ => .notRead
  | .incr _ => .notRead
  | .decr _ => .notRead
  | .andi _ => .code
  | .andr _ => .code
  | .ori _ => .code
  | .orr _ => .code
  | .xori _ => .code
  | .xorr _ => .code
  | .not _ => .notRead
  | .bsi _ => .notRead
  | .bsr _ => .notRead

/-- The operand byte that an instruction carries. -/
def Instr.operandByte : Instr → Byte
  | .nop x => x
  | .soi x => x
  | .sor x => x
  | .addi x => x
  | .addr x => x
  | .subi x => x
  | .subr x => x
  | .ldi x => x
  | .cpy x => x
  | .wrp x => x
  | .rdp x => x
  | .lsl x => x
  | .lsr x => x
  | .jmpi x => x
  | .jmpr x => x
  | .jei x => x
  | .jer x => x
  | .jnei x => x
  | .jner x => x
  | .cmpi x => x
  | .cmpr x => x
  | .mri x => x
  | .mrr x => x
  | .mwi x => x
  | .mwr x => x
  | .pushi x => x
  | .pushr x => x
  | .pop x => x
  | .incb x => x
  | .decb x => x
  | .incr x => x
  | .decr x => x
  | .andi x => x
  | .andr x => x
  | .ori x => x
  | .orr x => x
  | .xori x => x
  | .xorr x => x
  | .not x => x
  | .bsi x => x
  | .bsr x => x

/-- "Registers are identified by a 1-based code (1=A ... 7=S); code 0 or >7 is invalid" (10_state.md R25). -/
def validCode (c : Byte) : Bool := 1 ≤ c.toNat && c.toNat ≤ 7

/-- R103 for the instruction's own operand byte. -/
def Instr.wf (i : Instr) : Bool :=
  match i.dr1Role with
  | .code => validCode i.operandByte
  | _ => true

/-- R103 for the operand latch: what DR2 must hold for the instruction not to fault on it. -/
def Instr.latchWf (i : Instr) (dr2 : Byte) : Bool :=
  match i.dr2Role with
  | .code => validCode dr2
  | _ => true

/-- "an injective map from the 41 mnemonics to bytes" (R101). -/
def OpcodeMap.wf (m : OpcodeMap) : Prop := ∀ o o' : Opcode, m o = m o' → o = o'

/-- A program image that `load` accepts: "An image longer than 65,536 bytes is refused"
(70_reset_and_hazards.md R284). -/
def imageWf (image : List Byte) : Bool := image.length ≤ Config.memSize

end Sys2Proof
end

