-- ==== Sys2Proof/Decode.lean ====
section
/-! DEFINITION. The default opcode numbering, the decoder, total on any bytes and rejecting by name, and the encoder
(30_encoding.md R90, R94, R95, R101). Decoder and encoder take `OPCODE_MAP` as an argument, as R101 makes it a
parameter; `OpcodeMap.default` is the spec's numbering (log 1). -/
namespace Sys2Proof

/-- The default `OPCODE_MAP` (R101): 0x00 to 0x28 in the order of R100. DESIGN CHOICE of the spec (D1), log 1. -/
def OpcodeMap.default : OpcodeMap
  | .nop => 0x00
  | .soi => 0x01
  | .sor => 0x02
  | .addi => 0x03
  | .addr => 0x04
  | .subi => 0x05
  | .subr => 0x06
  | .ldi => 0x07
  | .cpy => 0x08
  | .wrp => 0x09
  | .rdp => 0x0A
  | .lsl => 0x0B
  | .lsr => 0x0C
  | .jmpi => 0x0D
  | .jmpr => 0x0E
  | .jei => 0x0F
  | .jer => 0x10
  | .jnei => 0x11
  | .jner => 0x12
  | .cmpi => 0x13
  | .cmpr => 0x14
  | .mri => 0x15
  | .mrr => 0x16
  | .mwi => 0x17
  | .mwr => 0x18
  | .pushi => 0x19
  | .pushr => 0x1A
  | .pop => 0x1B
  | .incb => 0x1C
  | .decb => 0x1D
  | .incr => 0x1E
  | .decr => 0x1F
  | .andi => 0x20
  | .andr => 0x21
  | .ori => 0x22
  | .orr => 0x23
  | .xori => 0x24
  | .xorr => 0x25
  | .not => 0x26
  | .bsi => 0x27
  | .bsr => 0x28

/-- The operation of an instruction. -/
def Instr.opcode : Instr → Opcode
  | .nop _ => .nop
  | .soi _ => .soi
  | .sor _ => .sor
  | .addi _ => .addi
  | .addr _ => .addr
  | .subi _ => .subi
  | .subr _ => .subr
  | .ldi _ => .ldi
  | .cpy _ => .cpy
  | .wrp _ => .wrp
  | .rdp _ => .rdp
  | .lsl _ => .lsl
  | .lsr _ => .lsr
  | .jmpi _ => .jmpi
  | .jmpr _ => .jmpr
  | .jei _ => .jei
  | .jer _ => .jer
  | .jnei _ => .jnei
  | .jner _ => .jner
  | .cmpi _ => .cmpi
  | .cmpr _ => .cmpr
  | .mri _ => .mri
  | .mrr _ => .mrr
  | .mwi _ => .mwi
  | .mwr _ => .mwr
  | .pushi _ => .pushi
  | .pushr _ => .pushr
  | .pop _ => .pop
  | .incb _ => .incb
  | .decb _ => .decb
  | .incr _ => .incr
  | .decr _ => .decr
  | .andi _ => .andi
  | .andr _ => .andr
  | .ori _ => .ori
  | .orr _ => .orr
  | .xori _ => .xori
  | .xorr _ => .xorr
  | .not _ => .not
  | .bsi _ => .bsi
  | .bsr _ => .bsr

/-- The instruction that an operation and its operand byte make. -/
def Instr.ofOpcode (o : Opcode) (x : Byte) : Instr :=
  match o with
  | .nop => .nop x
  | .soi => .soi x
  | .sor => .sor x
  | .addi => .addi x
  | .addr => .addr x
  | .subi => .subi x
  | .subr => .subr x
  | .ldi => .ldi x
  | .cpy => .cpy x
  | .wrp => .wrp x
  | .rdp => .rdp x
  | .lsl => .lsl x
  | .lsr => .lsr x
  | .jmpi => .jmpi x
  | .jmpr => .jmpr x
  | .jei => .jei x
  | .jer => .jer x
  | .jnei => .jnei x
  | .jner => .jner x
  | .cmpi => .cmpi x
  | .cmpr => .cmpr x
  | .mri => .mri x
  | .mrr => .mrr x
  | .mwi => .mwi x
  | .mwr => .mwr x
  | .pushi => .pushi x
  | .pushr => .pushr x
  | .pop => .pop x
  | .incb => .incb x
  | .decb => .decb x
  | .incr => .incr x
  | .decr => .decr x
  | .andi => .andi x
  | .andr => .andr x
  | .ori => .ori x
  | .orr => .orr x
  | .xori => .xori x
  | .xorr => .xorr x
  | .not => .not x
  | .bsi => .bsi x
  | .bsr => .bsr x

/-- The operation an opcode byte selects, "compared as a whole byte" (R90); none for an unknown opcode (R102). -/
def decodeOpcode (m : OpcodeMap) (op : Byte) : Option Opcode :=
  Opcode.all.find? (fun o => m o == op)

/-- The instruction of an opcode byte and an operand byte; none for an unknown opcode. -/
def decodePair (m : OpcodeMap) (op opnd : Byte) : Option Instr :=
  (decodeOpcode m op).map (fun o => Instr.ofOpcode o opnd)

/-- Why bytes are no instruction. -/
inductive Reject where
  /-- Fewer than the two bytes of an instruction (R90). The machine's fetch never meets it: a case of this function's own
  (DESIGN CHOICE, log 19). -/
  | truncated
  /-- An opcode byte to which `OPCODE_MAP` assigns no operation (R102). The machine goes on: `unknownOpcode` (log 10). -/
  | unknownOpcode (op : Byte)
  deriving DecidableEq, Repr

/-- An instruction and the bytes after it: opcode byte first, then operand byte (R90). -/
def decode (m : OpcodeMap) : List Byte → Except Reject (Instr × List Byte)
  | op :: opnd :: rest =>
    match decodePair m op opnd with
    | some i => .ok (i, rest)
    | none => .error (.unknownOpcode op)
  | _ => .error .truncated

/-- The two bytes of an instruction (R90). -/
def encode (m : OpcodeMap) (i : Instr) : List Byte := [m i.opcode, i.operandByte]

/-- The bytes, in the order they are stored, of a word of spec/opcode_table.json: `word = op * 256 + opnd` (R90), with
every bit above `nbits` zero. -/
def tableWordBytes (nbits w : Nat) : List Byte :=
  [BitVec.ofNat 8 (w % 2 ^ nbits / 256), BitVec.ofNat 8 (w % 2 ^ nbits)]

/-- The instruction the decoder reads from a word of spec/opcode_table.json, under the default numbering. -/
def decodeTableWord (nbits w : Nat) : Option Instr :=
  match decode OpcodeMap.default (tableWordBytes nbits w) with
  | .ok (i, _) => some i
  | .error _ => none

end Sys2Proof
end

