-- ==== Sys2Proof/Machine/Alu.lean ====
section
/-! DEFINITION. The byte operations of the instructions, all modulo 256 and without any flag (41_arithmetic.md R134). -/
namespace Sys2Proof.Machine

/-- `(v + w) mod 256` (00_scope.md R9). -/
def addByte (v w : Byte) : Byte := v + w

/-- `(v - w) mod 256`, "the mathematical modulus" (00_scope.md R9). -/
def subByte (v w : Byte) : Byte := v - w

/-- `v << 1 = (v * 2) mod 256` (44_shift.md R160, log 12). -/
def shiftLeftOne (v : Byte) : Byte := v <<< (1 : Nat)

/-- `v >> 1 = floor(v / 2)`: bit 7 becomes 0 (44_shift.md R160, log 12). -/
def shiftRightOne (v : Byte) : Byte := v >>> (1 : Nat)

/-- `v & w` (00_scope.md R9, log 12). -/
def andByte (v w : Byte) : Byte := v &&& w

/-- `v | w` (00_scope.md R9, log 12). -/
def orByte (v w : Byte) : Byte := v ||| w

/-- `v ^ w` (00_scope.md R9, log 12). -/
def xorByte (v w : Byte) : Byte := v ^^^ w

/-- `~v = 255 - v`, every bit inverted (49_logic_bankswitch.md R226, log 12). -/
def notByte (v : Byte) : Byte := ~~~v

end Sys2Proof.Machine
end

