-- ==== Sys2Proof/Machine/State.lean ====
section
/-! DEFINITION. The state of the CORE (10_state.md R20), its values after reset (R50), and the reasons an outcome
that is no next state can carry. -/
namespace Sys2Proof.Machine

/-- The seven registers by name (R20, R25). -/
inductive Reg where
  | A | B | C | D | BI | P | S
  deriving DecidableEq, Repr

/-- The register file: "four general-purpose registers (A, B, C, D)" (R21), the bank select BI (R22), the pointer P
(R23), the stack pointer S (R24). -/
structure Regs where
  A : Byte
  B : Byte
  C : Byte
  D : Byte
  BI : Byte
  P : Byte
  S : Byte
  deriving DecidableEq, Repr

/-- The program counter, "a (bank, address) pair" (R28). -/
structure PC where
  bank : Byte
  addr : Byte
  deriving DecidableEq, Repr

/-- The flag set, "four independent one-bit cells" (R30). -/
structure Flags where
  negative : Bool
  carry : Bool
  equal : Bool
  overflow : Bool
  deriving DecidableEq, Repr

/-- Sparse memory: address and byte pairs, addresses strictly rising, no entry equal to what an unlisted address reads as
(`Memory.wf`, log 8). Used for the banked memory (20_memory.md R60) and for the stack memory (R65). -/
abbrev Memory := List Host.Cell

/-- RUN (R42). -/
inductive RunState where
  | running
  | halted
  deriving DecidableEq, Repr

/-- HALT_REASON (R42): NONE, END, QUIT, FAULT. -/
inductive HaltReason where
  | none
  | endOfProgram
  | quit
  | fault
  deriving DecidableEq, Repr

/-- FAULT.cause (R43). -/
inductive FaultCause where
  | none
  | invalidRegister
  deriving DecidableEq, Repr

/-- FAULT, the diagnostic record (R43). -/
structure FaultRecord where
  cause : FaultCause
  code : Byte
  bank : Byte
  addr : Byte
  deriving DecidableEq, Repr

/-- The machine (R20). The last two fields are the model's own: whether a load was attempted since reset (log 6) and the
input `quit` (R51, log 2). -/
structure State where
  /-- A, B, C, D, BI, P, S -/
  regs : Regs
  /-- PC.bank, PC.addr -/
  pc : PC
  /-- EQUAL, NEGATIVE, CARRY, OVERFLOW -/
  flags : Flags
  /-- first-operand latch (R36) -/
  dr1 : Byte
  /-- operand latch (R37) -/
  dr2 : Byte
  /-- jump-taken flag (R38) -/
  jf : Bool
  /-- banked memory; the key of (bank, address) is bank * 256 + address -/
  mem : Memory
  /-- stack memory, keys 0 to 255 -/
  stack : Memory
  run : RunState
  haltReason : HaltReason
  fault : FaultRecord
  /-- UNK (R44): unknown opcodes executed, "without upper bound in the model" -/
  unk : Nat
  /-- PROG_LEN (R45) -/
  progLen : Nat
  /-- whether the host has performed `load`, with success or not, since reset: what the precondition "load has not yet been
  performed" of R284 refers to (70_reset_and_hazards.md R284, R285, log 6) -/
  loadAttempted : Bool
  /-- the host's `quit` bits at the coming yield points, next one first; every later bit is 0 (log 2) -/
  quitSamples : List Bool
  deriving DecidableEq, Repr

/-- Why a step would end in a Host fault: never. The machine's one fault, InvalidRegister, is a next state with its
record written (60_exceptions.md R242, log 5), and no access can fail (R254). Nothing raises a value of this type, so it has
none; safe. -/
inductive Fault where
  deriving DecidableEq, Repr

/-- Why an outcome is refused. No instruction and no step of this model is. -/
inductive Refusal where
  /-- An instruction without a meaning: no arm of `exec` answers it now. Safe. -/
  | notModelled (mnemonic : String)
  /-- Raised by the host operation `load` for an image over 65,536 bytes: "the model gives such a load no meaning"
  (70_reset_and_hazards.md R284), and for a source that fails after more bytes than that (DESIGN CHOICE, log 20). Safe. -/
  | imageTooLong
  /-- Raised by the host operation `load` when the machine has not just been reset (R284: "Load is performed once"),
  after a failed load too (R285: "the host must reset before trying again"). Safe. -/
  | loadNotAfterReset
  deriving DecidableEq, Repr

/-- The machine right after reset (R50, 70_reset_and_hazards.md R280): all zero, HALTED with reason NONE until `load`
completes (R282). The zeros of the flags, the latches and the stack are the spec's decision D11 (log 7); the empty list
of quit bits is the model's (DESIGN CHOICE, log 2), and that no load was attempted is DEDUCED from R284 (log 6). -/
def State.reset : State where
  regs := ⟨0, 0, 0, 0, 0, 0, 0⟩
  pc := ⟨0, 0⟩
  flags := ⟨false, false, false, false⟩
  dr1 := 0
  dr2 := 0
  jf := false
  mem := []
  stack := []
  run := .halted
  haltReason := .none
  fault := ⟨.none, 0, 0, 0⟩
  unk := 0
  progLen := 0
  loadAttempted := false
  quitSamples := []

end Sys2Proof.Machine
end

