-- ==== Sys2Proof/Machine/Ops.lean ====
section
/-! DEFINITION. The named operations over registers, memory, stack, latches and PC (the primitives of 00_scope.md R10),
and the one exception of the machine, InvalidRegister (60_exceptions.md R242). There is no return from it (R259). -/
namespace Sys2Proof.Machine

/-! ### Sparse memory -/

/-- What an address that is not listed reads as: the reset value of every memory cell and stack cell (10_state.md R50). -/
def blankByte : Byte := 0

/-- The byte at a key. -/
def Memory.read : Memory → Nat → Byte
  | [], _ => blankByte
  | (k, v) :: m, a => if k = a then v else Memory.read m a

/-- The memory without any entry at a key. -/
def Memory.erase (m : Memory) (a : Nat) : Memory := List.filter (fun c => decide (c.1 ≠ a)) m

/-- The memory with one more entry, before the first larger key. -/
def Memory.insert : Memory → Nat → Byte → Memory
  | [], a, v => [(a, v)]
  | (k, w) :: m, a, v => if a < k then (a, v) :: (k, w) :: m else (k, w) :: Memory.insert m a v

/-- The memory with `v` at key `a`, in canonical form: writing what an unlisted key reads as removes the entry. -/
def Memory.write (m : Memory) (a : Nat) (v : Byte) : Memory :=
  if v = blankByte then Memory.erase m a else Memory.insert (Memory.erase m a) a v

/-- The canonical form of a memory of `size` bytes: keys strictly rising and below `size`, no blank entry. -/
abbrev Memory.wf (size : Nat) (m : Memory) : Prop :=
  List.Pairwise (fun c d : Host.Cell => c.1 < d.1) m ∧ ∀ c ∈ m, c.1 < size ∧ c.2 ≠ blankByte

/-! ### Banked memory and stack memory -/

/-- The key of the location (bank, address): the bank is the high part (00_scope.md R12, 20_memory.md R69 (b)). -/
def cellKey (bank addr : Byte) : Nat := bank.toNat * 256 + addr.toNat

/-- `MemRead((b, a), 1)` (20_memory.md R62). -/
def memRead (s : State) (bank addr : Byte) : Byte := Memory.read s.mem (cellKey bank addr)

/-- `MemWrite((b, a), 1, v)` (20_memory.md R63). -/
def memWrite (s : State) (bank addr v : Byte) : State :=
  { s with mem := Memory.write s.mem (cellKey bank addr) v }

/-- `Stack[o]` (20_memory.md R66). -/
def stackRead (s : State) (o : Byte) : Byte := Memory.read s.stack o.toNat

/-- `Stack[o] <- v` (20_memory.md R66). -/
def stackWrite (s : State) (o v : Byte) : State := { s with stack := Memory.write s.stack o.toNat v }

/-! ### Registers -/

def Regs.get (f : Regs) : Reg → Byte
  | .A => f.A
  | .B => f.B
  | .C => f.C
  | .D => f.D
  | .BI => f.BI
  | .P => f.P
  | .S => f.S

def Regs.set (f : Regs) (r : Reg) (v : Byte) : Regs :=
  match r with
  | .A => { f with A := v }
  | .B => { f with B := v }
  | .C => { f with C := v }
  | .D => { f with D := v }
  | .BI => { f with BI := v }
  | .P => { f with P := v }
  | .S => { f with S := v }

def readReg (s : State) (r : Reg) : Byte := s.regs.get r

def writeReg (s : State) (r : Reg) (v : Byte) : State := { s with regs := s.regs.set r v }

/-! ### Latches and program counter -/

/-- `DR1 <- v` (30_encoding.md R94). -/
def loadDR1 (s : State) (v : Byte) : State := { s with dr1 := v }

/-- `DR2 <- v` (30_encoding.md R93). -/
def loadDR2 (s : State) (v : Byte) : State := { s with dr2 := v }

/-- `comp(PC)` (00_scope.md R12). -/
def PC.comp (pc : PC) : Nat := cellKey pc.bank pc.addr

/-- `pc <- (b, a); JF <- 1`, the effect of a taken jump (45_branch_compare.md R170). -/
def jumpTo (s : State) (bank addr : Byte) : State := { s with pc := ⟨bank, addr⟩, jf := true }

/-! ### The stack -/

/-- "Push writes at S then increments S" (47_stack.md R200). -/
def pushByte (s : State) (v : Byte) : State :=
  let t := stackWrite s (readReg s .S) v
  writeReg t .S (readReg t .S + 1)

/-- "pop decrements S then reads" (47_stack.md R202): the byte, and the state with S decremented. -/
def popByte (s : State) : Byte × State :=
  let t := writeReg s .S (readReg s .S - 1)
  (stackRead t (readReg t .S), t)

/-! ### Halting and the exception -/

/-- `RUN <- HALTED; HALT_REASON <- why`. -/
def haltWith (s : State) (why : HaltReason) : State := { s with run := .halted, haltReason := why }

/-- The fault record of an invalid register code (60_exceptions.md R244). -/
def invalidRegisterRecord (c : Byte) (pc : PC) : FaultRecord := ⟨.invalidRegister, c, pc.bank, pc.addr⟩

/-- Taking InvalidRegister(c) (60_exceptions.md R242): the record with the PC of the faulting opcode byte, HALTED with
reason FAULT, nothing else written and PC not advanced. -/
def raiseInvalidRegister (s : State) (c : Byte) : State :=
  haltWith { s with fault := invalidRegisterRecord c s.pc } .fault

/-- The numeric code of HALT_REASON (60_exceptions.md R245, log 16). -/
def HaltReason.code : HaltReason → Nat
  | .none => 0
  | .endOfProgram => 1
  | .quit => 2
  | .fault => 3

/-- The numeric code of FAULT.cause (60_exceptions.md R245, log 16). -/
def FaultCause.code : FaultCause → Nat
  | .none => 0
  | .invalidRegister => 1

end Sys2Proof.Machine
end

