-- ==== Sys2Proof/Machine/Operands.lean ====
section
/-! DEFINITION. The operand forms. A latch is used as a value as it stands, or as a register code that is resolved
(00_scope.md R11, 30_encoding.md R99). -/
namespace Sys2Proof.Machine

/-- `resolve(code)`: "fails with an `InvalidRegister` condition for code 0 or code > 7"; the whole byte is compared
(00_scope.md R11, 10_state.md R25). -/
def Reg.ofCode (c : Byte) : Option Reg :=
  match c.toNat with
  | 1 => some .A
  | 2 => some .B
  | 3 => some .C
  | 4 => some .D
  | 5 => some .BI
  | 6 => some .P
  | 7 => some .S
  | _ => none

/-- The code of a register (10_state.md R25). -/
def Reg.toCode : Reg → Byte
  | .A => 1
  | .B => 2
  | .C => 3
  | .D => 4
  | .BI => 5
  | .P => 6
  | .S => 7

/-- A routine that resolves one code before any write: InvalidRegister, or the routine on the register. -/
def withReg (s : State) (c : Byte) (routine : Reg → State) : Host.Outcome State Fault Refusal :=
  match Reg.ofCode c with
  | some r => .next (routine r)
  | none => .next (raiseInvalidRegister s c)

/-- A routine that resolves the codes in DR1 and in DR2, "in the order DR1's code first, DR2's code second", before any
write (00_scope.md R11). -/
def withRegs (s : State) (routine : Reg → Reg → State) : Host.Outcome State Fault Refusal :=
  match Reg.ofCode s.dr1 with
  | some r1 => withReg s s.dr2 (fun r2 => routine r1 r2)
  | none => .next (raiseInvalidRegister s s.dr1)

end Sys2Proof.Machine
end

