-- ==== Sys2Proof/Machine/Arith.lean ====
section
/-! DEFINITION. ADDI, ADDR, SUBI, SUBR: the result goes to A, no flag is written (41_arithmetic.md). -/
namespace Sys2Proof.Machine

/-- R130: `A <- (A + DR1) mod 256`. -/
def execAddi (v : Byte) (s : State) : Host.Outcome State Fault Refusal :=
  let s := loadDR1 s v
  .next (writeReg s .A (addByte (readReg s .A) s.dr1))

/-- R131: `A <- (A + x[DR1]) mod 256`. -/
def execAddr (rs : Byte) (s : State) : Host.Outcome State Fault Refusal :=
  let s := loadDR1 s rs
  withReg s s.dr1 (fun r => writeReg s .A (addByte (readReg s .A) (readReg s r)))

/-- R132: `A <- (A - DR1) mod 256`. -/
def execSubi (v : Byte) (s : State) : Host.Outcome State Fault Refusal :=
  let s := loadDR1 s v
  .next (writeReg s .A (subByte (readReg s .A) s.dr1))

/-- R133: `A <- (A - x[DR1]) mod 256`. -/
def execSubr (rs : Byte) (s : State) : Host.Outcome State Fault Refusal :=
  let s := loadDR1 s rs
  withReg s s.dr1 (fun r => writeReg s .A (subByte (readReg s .A) (readReg s r)))

end Sys2Proof.Machine
end

