-- ==== Sys2Proof/Machine/BankSwitch.lean ====
section
/-! DEFINITION. BSI, BSR: a register assignment to BI that never touches PC (49_logic_bankswitch.md). -/
namespace Sys2Proof.Machine

/-- R227: `BI <- DR1`. -/
def execBsi (b : Byte) (s : State) : Host.Outcome State Fault Refusal :=
  let s := loadDR1 s b
  .next (writeReg s .BI s.dr1)

/-- R228: `BI <- x[DR1]`. -/
def execBsr (r : Byte) (s : State) : Host.Outcome State Fault Refusal :=
  let s := loadDR1 s r
  withReg s s.dr1 (fun q => writeReg s .BI (readReg s q))

end Sys2Proof.Machine
end

