-- ==== Sys2Proof/Machine/Flags.lean ====
section
/-! DEFINITION. The flag computations. EQUAL is the only flag an instruction writes or reads (10_state.md R31); NEGATIVE,
CARRY and OVERFLOW have no writer and no reader (R32). -/
namespace Sys2Proof.Machine

/-- "`a == b` on bytes is true exactly when all eight bits agree" (00_scope.md R9). -/
def bitEqual (v w : Byte) : Bool := v == w

/-- What a compare does: EQUAL is set when the operands are bit-equal and cleared otherwise (45_branch_compare.md R180,
R181); the other flags are kept. -/
def compareBytes (s : State) (v w : Byte) : State :=
  { s with flags := { s.flags with equal := bitEqual v w } }

/-- The condition of JEI and JER. -/
def equalSet (s : State) : Bool := s.flags.equal

/-- The condition of JNEI and JNER. -/
def equalClear (s : State) : Bool := !s.flags.equal

/-- A jump under a condition; not taken, it does nothing (45_branch_compare.md R172). -/
def jumpIf (cond : Bool) (s : State) (bank addr : Byte) : State :=
  bif cond then jumpTo s bank addr else s

end Sys2Proof.Machine
end

