-- ==== Sys2Proof/Machine/Branch.lean ====
section
/-! DEFINITION. The jumps, absolute, with the address in DR1 and the bank in DR2 (D4, log 13), and the compares
(45_branch_compare.md). A register form resolves both codes whether or not the jump is taken (R173, D12). -/
namespace Sys2Proof.Machine

/-- R170: `pc <- (DR2, DR1); JF <- 1`. -/
def execJmpi (a : Byte) (s : State) : Host.Outcome State Fault Refusal :=
  let s := loadDR1 s a
  .next (jumpTo s s.dr2 s.dr1)

/-- R171: `pc <- (x[DR2], x[DR1]); JF <- 1`. -/
def execJmpr (ra : Byte) (s : State) : Host.Outcome State Fault Refusal :=
  let s := loadDR1 s ra
  withRegs s (fun r1 r2 => jumpTo s (readReg s r2) (readReg s r1))

/-- R172: JMPI if EQUAL = 1. -/
def execJei (a : Byte) (s : State) : Host.Outcome State Fault Refusal :=
  let s := loadDR1 s a
  .next (jumpIf (equalSet s) s s.dr2 s.dr1)

/-- R173: JMPR if EQUAL = 1. -/
def execJer (ra : Byte) (s : State) : Host.Outcome State Fault Refusal :=
  let s := loadDR1 s ra
  withRegs s (fun r1 r2 => jumpIf (equalSet s) s (readReg s r2) (readReg s r1))

/-- R174: JMPI if EQUAL = 0. -/
def execJnei (a : Byte) (s : State) : Host.Outcome State Fault Refusal :=
  let s := loadDR1 s a
  .next (jumpIf (equalClear s) s s.dr2 s.dr1)

/-- R175: JMPR if EQUAL = 0. -/
def execJner (ra : Byte) (s : State) : Host.Outcome State Fault Refusal :=
  let s := loadDR1 s ra
  withRegs s (fun r1 r2 => jumpIf (equalClear s) s (readReg s r2) (readReg s r1))

/-- R180: `EQUAL <- (x[DR1] == DR2)`. -/
def execCmpi (r : Byte) (s : State) : Host.Outcome State Fault Refusal :=
  let s := loadDR1 s r
  withReg s s.dr1 (fun q => compareBytes s (readReg s q) s.dr2)

/-- R181: `EQUAL <- (x[DR1] == x[DR2])`. -/
def execCmpr (r : Byte) (s : State) : Host.Outcome State Fault Refusal :=
  let s := loadDR1 s r
  withRegs s (fun q1 q2 => compareBytes s (readReg s q1) (readReg s q2))

end Sys2Proof.Machine
end

