-- ==== Sys2Proof/Machine/IncDec.lean ====
section
/-! DEFINITION. INCB, DECB on the byte at (BI, P); INCR, DECR on a register (48_incdec.md). -/
namespace Sys2Proof.Machine

/-- Read-modify-write of the byte P points at, in bank BI (20_memory.md R71). -/
def changePointed (s : State) (f : Byte → Byte) : State :=
  memWrite s (readReg s .BI) (readReg s .P) (f (memRead s (readReg s .BI) (readReg s .P)))

/-- R210: `Mem[BI][P] <- (Mem[BI][P] + 1) mod 256`; the operand byte is ignored. -/
def execIncb (o : Byte) (s : State) : Host.Outcome State Fault Refusal :=
  .next (changePointed (loadDR1 s o) (fun v => addByte v 1))

/-- R211: `Mem[BI][P] <- (Mem[BI][P] - 1) mod 256`; the operand byte is ignored. -/
def execDecb (o : Byte) (s : State) : Host.Outcome State Fault Refusal :=
  .next (changePointed (loadDR1 s o) (fun v => subByte v 1))

/-- R212: `x[DR1] <- (x[DR1] + 1) mod 256`. -/
def execIncr (r : Byte) (s : State) : Host.Outcome State Fault Refusal :=
  let s := loadDR1 s r
  withReg s s.dr1 (fun q => writeReg s q (addByte (readReg s q) 1))

/-- R213: `x[DR1] <- (x[DR1] - 1) mod 256`. -/
def execDecr (r : Byte) (s : State) : Host.Outcome State Fault Refusal :=
  let s := loadDR1 s r
  withReg s s.dr1 (fun q => writeReg s q (subByte (readReg s q) 1))

end Sys2Proof.Machine
end

