-- ==== Sys2Proof/Machine/Latch.lean ====
section
/-! DEFINITION. NOP, SOI, SOR (40_latch_nop.md). -/
namespace Sys2Proof.Machine

/-- R120: the decoder loads DR1 with the operand byte, then the routine clears both latches. -/
def execNop (o : Byte) (s : State) : Host.Outcome State Fault Refusal :=
  .next (loadDR2 (loadDR1 (loadDR1 s o) 0) 0)

/-- R121: `DR2 <- opnd`; DR1 is not loaded (R93). -/
def execSoi (v : Byte) (s : State) : Host.Outcome State Fault Refusal :=
  .next (loadDR2 s v)

/-- R122: as SOI; the code is stored unchecked. -/
def execSor (c : Byte) (s : State) : Host.Outcome State Fault Refusal :=
  .next (loadDR2 s c)

end Sys2Proof.Machine
end

