-- ==== Sys2Proof/Machine/Logic.lean ====
section
/-! DEFINITION. ANDI, ANDR, ORI, ORR, XORI, XORR: the destination's code travels in DR2; NOT (49_logic_bankswitch.md). -/
namespace Sys2Proof.Machine

/-- R220: `x[DR2] <- x[DR2] & DR1`. -/
def execAndi (v : Byte) (s : State) : Host.Outcome State Fault Refusal :=
  let s := loadDR1 s v
  withReg s s.dr2 (fun d => writeReg s d (andByte (readReg s d) s.dr1))

/-- R221: `x[DR2] <- x[DR2] & x[DR1]`. -/
def execAndr (rs : Byte) (s : State) : Host.Outcome State Fault Refusal :=
  let s := loadDR1 s rs
  withRegs s (fun q d => writeReg s d (andByte (readReg s d) (readReg s q)))

/-- R222: `x[DR2] <- x[DR2] | DR1`. -/
def execOri (v : Byte) (s : State) : Host.Outcome State Fault Refusal :=
  let s := loadDR1 s v
  withReg s s.dr2 (fun d => writeReg s d (orByte (readReg s d) s.dr1))

/-- R223: `x[DR2] <- x[DR2] | x[DR1]`. -/
def execOrr (rs : Byte) (s : State) : Host.Outcome State Fault Refusal :=
  let s := loadDR1 s rs
  withRegs s (fun q d => writeReg s d (orByte (readReg s d) (readReg s q)))

/-- R224: `x[DR2] <- x[DR2] ^ DR1`. -/
def execXori (v : Byte) (s : State) : Host.Outcome State Fault Refusal :=
  let s := loadDR1 s v
  withReg s s.dr2 (fun d => writeReg s d (xorByte (readReg s d) s.dr1))

/-- R225: `x[DR2] <- x[DR2] ^ x[DR1]`. -/
def execXorr (rs : Byte) (s : State) : Host.Outcome State Fault Refusal :=
  let s := loadDR1 s rs
  withRegs s (fun q d => writeReg s d (xorByte (readReg s d) (readReg s q)))

/-- R226: `x[DR1] <- 255 - x[DR1]`. -/
def execNot (r : Byte) (s : State) : Host.Outcome State Fault Refusal :=
  let s := loadDR1 s r
  withReg s s.dr1 (fun q => writeReg s q (notByte (readReg s q)))

end Sys2Proof.Machine
end

