-- ==== Sys2Proof/Machine/MemoryRW.lean ====
section
/-! DEFINITION. MRI, MRR, MWI, MWR: one byte in bank BI (46_memory_rw.md). -/
namespace Sys2Proof.Machine

/-- R190: `x[DR1] <- Mem[BI][DR2]`, with BI as it is before the write. -/
def execMri (rd : Byte) (s : State) : Host.Outcome State Fault Refusal :=
  let s := loadDR1 s rd
  withReg s s.dr1 (fun r => writeReg s r (memRead s (readReg s .BI) s.dr2))

/-- R191: `x[DR1] <- Mem[BI][x[DR2]]`. -/
def execMrr (rd : Byte) (s : State) : Host.Outcome State Fault Refusal :=
  let s := loadDR1 s rd
  withRegs s (fun r1 r2 => writeReg s r1 (memRead s (readReg s .BI) (readReg s r2)))

/-- R192: `Mem[BI][DR2] <- x[DR1]`. -/
def execMwi (rs : Byte) (s : State) : Host.Outcome State Fault Refusal :=
  let s := loadDR1 s rs
  withReg s s.dr1 (fun r => memWrite s (readReg s .BI) s.dr2 (readReg s r))

/-- R193: `Mem[BI][x[DR2]] <- x[DR1]`. -/
def execMwr (rs : Byte) (s : State) : Host.Outcome State Fault Refusal :=
  let s := loadDR1 s rs
  withRegs s (fun r1 r2 => memWrite s (readReg s .BI) (readReg s r2) (readReg s r1))

end Sys2Proof.Machine
end

