-- ==== Sys2Proof/Machine/Pointer.lean ====
section
/-! DEFINITION. WRP, RDP: the byte at (BI, P) (43_pointer_indirect.md). -/
namespace Sys2Proof.Machine

/-- R150: `Mem[BI][P] <- x[DR1]`. -/
def execWrp (rs : Byte) (s : State) : Host.Outcome State Fault Refusal :=
  let s := loadDR1 s rs
  withReg s s.dr1 (fun r => memWrite s (readReg s .BI) (readReg s .P) (readReg s r))

/-- R151: `x[DR1] <- Mem[BI][P]`, with BI and P as they are before the write. -/
def execRdp (rd : Byte) (s : State) : Host.Outcome State Fault Refusal :=
  let s := loadDR1 s rd
  withReg s s.dr1 (fun r => writeReg s r (memRead s (readReg s .BI) (readReg s .P)))

end Sys2Proof.Machine
end

