-- ==== Sys2Proof/Machine/Shift.lean ====
section
/-! DEFINITION. LSL, LSR: one position, no flag (44_shift.md). -/
namespace Sys2Proof.Machine

/-- R161: `x[DR1] <- (x[DR1] * 2) mod 256`. -/
def execLsl (r : Byte) (s : State) : Host.Outcome State Fault Refusal :=
  let s := loadDR1 s r
  withReg s s.dr1 (fun q => writeReg s q (shiftLeftOne (readReg s q)))

/-- R162: `x[DR1] <- floor(x[DR1] / 2)`. -/
def execLsr (r : Byte) (s : State) : Host.Outcome State Fault Refusal :=
  let s := loadDR1 s r
  withReg s s.dr1 (fun q => writeReg s q (shiftRightOne (readReg s q)))

end Sys2Proof.Machine
end

