-- ==== Sys2Proof/Machine/StackOps.lean ====
section
/-! DEFINITION. PUSHI, PUSHR, POP (47_stack.md); S wraps modulo 256 (60_exceptions.md R250). -/
namespace Sys2Proof.Machine

/-- R200: `Stack[S] <- DR1; S <- (S + 1) mod 256`. -/
def execPushi (v : Byte) (s : State) : Host.Outcome State Fault Refusal :=
  let s := loadDR1 s v
  .next (pushByte s s.dr1)

/-- R201: push the register, then zero it, "after the push, including after the increment of S" (D18, log 13). -/
def execPushr (r : Byte) (s : State) : Host.Outcome State Fault Refusal :=
  let s := loadDR1 s r
  withReg s s.dr1 (fun q => writeReg (pushByte s (readReg s q)) q 0)

/-- R202: `S <- (S - 1) mod 256; B <- Stack[S]`; the operand byte is not a code and is never checked. -/
def execPop (o : Byte) (s : State) : Host.Outcome State Fault Refusal :=
  let s := loadDR1 s o
  .next (writeReg (popByte s).2 .B (popByte s).1)

end Sys2Proof.Machine
end

