-- ==== Sys2Proof/Machine/Transfer.lean ====
section
/-! DEFINITION. LDI, CPY (42_register_transfer.md). -/
namespace Sys2Proof.Machine

/-- R140: `x[DR1] <- DR2`. -/
def execLdi (rd : Byte) (s : State) : Host.Outcome State Fault Refusal :=
  let s := loadDR1 s rd
  withReg s s.dr1 (fun r => writeReg s r s.dr2)

/-- R141: `x[DR1] <- x[DR2]`, DR1's code checked first. -/
def execCpy (rd : Byte) (s : State) : Host.Outcome State Fault Refusal :=
  let s := loadDR1 s rd
  withRegs s (fun r1 r2 => writeReg s r1 (readReg s r2))

end Sys2Proof.Machine
end

