-- ==== Sys2Proof/Machine/Dispatch.lean ====
section
/-! DEFINITION. One arm per instruction: step 4 of the cycle of 30_encoding.md R96 (the latch load and the routine). The
rest of the cycle (fetch, PC advance, yield point) is in Cycle.lean (log 15). -/
namespace Sys2Proof.Machine

def exec (i : Instr) (s : State) : Host.Outcome State Fault Refusal :=
  match i with
  | .nop o => Sys2Proof.Machine.execNop o s
  | .soi v => Sys2Proof.Machine.execSoi v s
  | .sor c => Sys2Proof.Machine.execSor c s
  | .addi v => Sys2Proof.Machine.execAddi v s
  | .addr rs => Sys2Proof.Machine.execAddr rs s
  | .subi v => Sys2Proof.Machine.execSubi v s
  | .subr rs => Sys2Proof.Machine.execSubr rs s
  | .ldi rd => Sys2Proof.Machine.execLdi rd s
  | .cpy rd => Sys2Proof.Machine.execCpy rd s
  | .wrp rs => Sys2Proof.Machine.execWrp rs s
  | .rdp rd => Sys2Proof.Machine.execRdp rd s
  | .lsl r => Sys2Proof.Machine.execLsl r s
  | .lsr r => Sys2Proof.Machine.execLsr r s
  | .jmpi a => Sys2Proof.Machine.execJmpi a s
  | .jmpr ra => Sys2Proof.Machine.execJmpr ra s
  | .jei a => Sys2Proof.Machine.execJei a s
  | .jer ra => Sys2Proof.Machine.execJer ra s
  | .jnei a => Sys2Proof.Machine.execJnei a s
  | .jner ra => Sys2Proof.Machine.execJner ra s
  | .cmpi r => Sys2Proof.Machine.execCmpi r s
  | .cmpr r => Sys2Proof.Machine.execCmpr r s
  | .mri rd => Sys2Proof.Machine.execMri rd s
  | .mrr rd => Sys2Proof.Machine.execMrr rd s
  | .mwi rs => Sys2Proof.Machine.execMwi rs s
  | .mwr rs => Sys2Proof.Machine.execMwr rs s
  | .pushi v => Sys2Proof.Machine.execPushi v s
  | .pushr r => Sys2Proof.Machine.execPushr r s
  | .pop o => Sys2Proof.Machine.execPop o s
  | .incb o => Sys2Proof.Machine.execIncb o s
  | .decb o => Sys2Proof.Machine.execDecb o s
  | .incr r => Sys2Proof.Machine.execIncr r s
  | .decr r => Sys2Proof.Machine.execDecr r s
  | .andi v => Sys2Proof.Machine.execAndi v s
  | .andr rs => Sys2Proof.Machine.execAndr rs s
  | .ori v => Sys2Proof.Machine.execOri v s
  | .orr rs => Sys2Proof.Machine.execOrr rs s
  | .xori v => Sys2Proof.Machine.execXori v s
  | .xorr rs => Sys2Proof.Machine.execXorr rs s
  | .not r => Sys2Proof.Machine.execNot r s
  | .bsi b => Sys2Proof.Machine.execBsi b s
  | .bsr r => Sys2Proof.Machine.execBsr r s

end Sys2Proof.Machine
end

