-- ==== Sys2Proof/Machine/Cycle.lean ====
section
/-! DEFINITION. The instruction cycle around `exec` (30_encoding.md R96): end-of-program test, fetch roll-over, fetch,
decode, PC advance, yield point. -/
namespace Sys2Proof.Machine

/-- "the bank after 255 is bank 0": address 0 of the next bank (R92, R98). -/
def nextBank (pc : PC) : PC := ⟨pc.bank + 1, 0⟩

/-- The fetch roll-over (R92): at address 255 the operand byte would lie past the bank. -/
def fetchPc (pc : PC) : PC := if pc.addr.toNat = 255 then nextBank pc else pc

/-- The PC advance (R97). -/
def advancePc (pc : PC) : PC := if 254 ≤ pc.addr.toNat then nextBank pc else ⟨pc.bank, pc.addr + 2⟩

/-- "the composite PC has reached PROG_LEN" (60_exceptions.md R260). -/
def atEnd (s : State) : Bool := s.progLen ≤ s.pc.comp

/-- Steps 2 and 3 before the reads: `JF <- 0` and the fetch roll-over, "performed on the PC register itself". -/
def beginCycle (s : State) : State := { s with jf := false, pc := fetchPc s.pc }

/-- The opcode byte (R91). -/
def opcodeAt (s : State) : Byte := memRead s s.pc.bank s.pc.addr

/-- The operand byte (R91). -/
def operandAt (s : State) : Byte := memRead s s.pc.bank (s.pc.addr + 1)

/-- R102: an unknown opcode loads DR1 with its operand byte and is counted; nothing else (log 10). -/
def unknownOpcode (s : State) (opnd : Byte) : State :=
  { loadDR1 s opnd with unk := s.unk + 1 }

/-- Step 5: a taken jump's PC "stands unmodified for this cycle"; otherwise the advance. -/
def advance (s : State) : State := if s.jf then s else { s with pc := advancePc s.pc }

/-- Step 6: the host presents one `quit` bit, sampled after the PC update (60_exceptions.md R262); no bit left is 0. -/
def yieldPoint (s : State) : State :=
  match s.quitSamples with
  | [] => s
  | true :: rest => haltWith { s with quitSamples := rest } .quit
  | false :: rest => { s with quitSamples := rest }

/-- The end of a cycle: after a fault the PC is not advanced and `quit` is not sampled (60_exceptions.md R242);
otherwise steps 5 and 6. -/
def endCycle (t : State) : State :=
  match t.run with
  | .halted => t
  | .running => yieldPoint (advance t)

def finish (o : Host.Outcome State Fault Refusal) : Host.Outcome State Fault Refusal :=
  match o with
  | .next t => .next (endCycle t)
  | .fault r => .fault r
  | .refused r => .refused r

/-- Step 4: SOI, SOR and every known opcode (`exec`), or an unknown one. -/
def decodeAndRun (m : OpcodeMap) (s : State) : Host.Outcome State Fault Refusal :=
  match decodePair m (opcodeAt s) (operandAt s) with
  | some i => exec i s
  | none => .next (unknownOpcode s (operandAt s))

/-- One step of the machine under a numbering (R96, R7). "When `RUN = HALTED` there is no step": the state stays as it
is (10_state.md R42, log 3). -/
def stepWith (m : OpcodeMap) (s : State) : Host.Outcome State Fault Refusal :=
  match s.run with
  | .halted => .next s
  | .running =>
    bif atEnd s then .next (haltWith s .endOfProgram) else finish (decodeAndRun m (beginCycle s))

/-! ### Placing one instruction for the next step -/

/-- A state in which the next step fetches at its PC: RUNNING, and a PROG_LEN that does not end the program there
(log 4). A state that runs already keeps its PROG_LEN. As after any load, no other load is accepted. -/
def readyToFetch (s : State) : State :=
  let n := s.pc.comp
  { s with run := .running, haltReason := .none, loadAttempted := true,
           progLen := if n < s.progLen then s.progLen else min (n + 2) Config.memSize }

/-- The bytes of an instruction stored where the next step fetches (R91, R92). -/
def placeBytes (s : State) (bytes : List Byte) : State :=
  let pc := fetchPc s.pc
  match bytes with
  | op :: opnd :: _ => memWrite (memWrite s pc.bank pc.addr op) pc.bank (pc.addr + 1) opnd
  | _ => s

end Sys2Proof.Machine
end

