-- ==== Sys2Proof/Machine/HostOps.lean ====
section
/-! DEFINITION. What the host can do to the machine and see of it (00_scope.md R6, 70_reset_and_hazards.md R280 to R288).
The host writes nothing else, and nothing at all while RUNNING. -/
namespace Sys2Proof.Machine

/-- What the loader's byte source gives: the whole image, or an IOFailure after some bytes (R285, 60_exceptions.md R252). -/
inductive ImageSource where
  | complete (image : List Byte)
  | ioFailure (partOfImage : List Byte)
  deriving DecidableEq, Repr

/-- The bytes of an image written from key `a` on: byte i at bank i div 256, address i mod 256 (R284), whose key is i. -/
def writeImage : Memory → Nat → List Byte → Memory
  | m, _, [] => m
  | m, a, v :: image =>
    writeImage (Memory.write m (cellKey (BitVec.ofNat 8 (a / 256)) (BitVec.ofNat 8 (a % 256))) v) (a + 1) image

/-- `reset` (R280): every piece of state to its reset value; the input `quit` is no state and is kept. -/
def hostReset (s : State) : State := { State.reset with quitSamples := s.quitSamples }

/-- "the machine has just been reset and load has not yet been performed" (R284): every field is as reset leaves it, the
one that records a load among them (log 6). -/
def justReset (s : State) : Bool := decide (s = hostReset s)

/-- `load` (R284, R285, log 6): refused unless just reset and for an image that is too long. A failed source leaves RUN
HALTED and PROG_LEN 0, with the bytes already written, and "the host must reset before trying again". The spec does not say
which of the two an IOFailure after more than 65,536 bytes is: that it is the refusal of a too long image is the model's
choice (DESIGN CHOICE, log 20). -/
def load (src : ImageSource) (s : State) : Host.Outcome State Fault Refusal :=
  bif justReset s then
    match src with
    | .complete image =>
      bif imageWf image then
        .next { s with
          mem := writeImage s.mem 0 image, progLen := image.length, pc := ⟨0, 0⟩, run := .running, loadAttempted := true }
      else .refused .imageTooLong
    | .ioFailure part =>
      bif imageWf part then .next { s with mem := writeImage s.mem 0 part, loadAttempted := true }
      else .refused .imageTooLong
  else .refused .loadNotAfterReset

/-- The host presents the `quit` bits of the coming yield points (R288 (c), log 2). -/
def presentQuit (bits : List Bool) (s : State) : State := { s with quitSamples := bits }

/-- Everything the host can do (R288). -/
inductive HostOp where
  | reset
  | load (src : ImageSource)
  | presentQuit (bits : List Bool)
  deriving DecidableEq, Repr

def hostStep (o : HostOp) (s : State) : Host.Outcome State Fault Refusal :=
  match o with
  | .reset => .next (hostReset s)
  | .load src => load src s
  | .presentQuit bits => .next (presentQuit bits s)

/-! ### Views: functions of the state, so reading changes nothing (20_memory.md R72, R77; log 14) -/

/-- The byte at address `a` of display bank `251 + k` (R72). -/
def displayByte (s : State) (k : Fin 4) (a : Byte) : Byte :=
  memRead s (Config.firstDisplayBank + BitVec.ofNat 8 k.val) a

/-- What the register-dump view shows: the seven registers, PC, the four flags, DR1, DR2 and JF. The spec says only
"Read-only view of registers and memory" (00_scope.md R6) and "register-dump" (60_exceptions.md R269), and of DR1 that a
debug view shows it (10_state.md R36); the list is the model's (DESIGN CHOICE, log 18). -/
structure RegisterDump where
  regs : Regs
  pc : PC
  flags : Flags
  dr1 : Byte
  dr2 : Byte
  jf : Bool
  deriving DecidableEq, Repr

/-- The register-dump view (R269); its content is the model's choice (DESIGN CHOICE, log 18). -/
def registerDump (s : State) : RegisterDump :=
  { regs := s.regs, pc := s.pc, flags := s.flags, dr1 := s.dr1, dr2 := s.dr2, jf := s.jf }

/-- The memory-dump view (R269) of one bank, address 0 first; its content is the model's choice (DESIGN CHOICE, log 18). -/
def bankDump (s : State) (bank : Byte) : List Byte :=
  (List.range Config.bankSize).map (fun a => memRead s bank (BitVec.ofNat 8 a))

/-- The memory-dump view (R269) of the stack memory, offset 0 first; that it is part of the view is the model's choice
(DESIGN CHOICE, log 18). -/
def stackDump (s : State) : List Byte :=
  (List.range Config.stackSize).map (fun o => stackRead s (BitVec.ofNat 8 o))

end Sys2Proof.Machine
end

