-- ==== Sys2Proof/Machine/Step.lean ====
section
/-! DEFINITION. One step of the machine under the default numbering, and the placing of one instruction for the next step.
Everything they do is in Cycle.lean. -/
namespace Sys2Proof.Machine

/-- One instruction cycle (30_encoding.md R96) under the default `OPCODE_MAP` (R101, log 1). -/
def step (s : State) : Host.Outcome State Fault Refusal := stepWith OpcodeMap.default s

/-- `s` with the instruction of a word of spec/opcode_table.json stored where the next step fetches, and RUNNING so that
this step happens: it stands for the host's load (log 4). -/
def State.withFetchWord (s : State) (nbits w : Nat) : State :=
  placeBytes (readyToFetch s) (tableWordBytes nbits w)

end Sys2Proof.Machine
end

