-- ==== Sys2Proof/Safety.lean ====
section
/-! DEFINITION. The terms in which claims about the machine are stated: the invariant of the machine, the states it can
be in, what a run that keeps clear of the fault is, what an instruction may change (its frame), and when an instruction
faults. -/
namespace Sys2Proof.Machine

/-! ### The invariant -/

/-- What holds in every state the machine can be in. -/
structure Inv (s : State) : Prop where
  /-- the banked memory is in canonical form (log 8) -/
  memCanonical : Memory.wf Config.memSize s.mem
  /-- the stack memory is in canonical form (log 8) -/
  stackCanonical : Memory.wf Config.stackSize s.stack
  /-- NEGATIVE, CARRY and OVERFLOW "hold their reset value 0 for ever" (10_state.md R32) -/
  deadFlags : s.flags.negative = false ∧ s.flags.carry = false ∧ s.flags.overflow = false
  /-- PROG_LEN is 0 to 65,536 (10_state.md R20) -/
  progLenRange : s.progLen ≤ Config.memSize
  /-- HALT_REASON "is `NONE` while RUN = RUNNING" (10_state.md R42) -/
  runningReason : s.run = .running → s.haltReason = .none
  /-- END: "PC keeps the value that failed the test" (60_exceptions.md R260) -/
  endReached : s.haltReason = .endOfProgram → s.progLen ≤ s.pc.comp
  /-- FAULT "is all zero until a fault occurs" (10_state.md R43) -/
  noFault : s.haltReason ≠ .fault → s.fault = ⟨.none, 0, 0, 0⟩
  /-- after a fault the record holds an invalid code and "PC still pointing at the faulting instruction"
  (60_exceptions.md R244, R258) -/
  faulted : s.haltReason = .fault → s.fault.cause = .invalidRegister ∧ validCode s.fault.code = false ∧
    s.fault.bank = s.pc.bank ∧ s.fault.addr = s.pc.addr
  /-- HALTED with reason NONE is "execution has not begun" (70_reset_and_hazards.md R282): all but what a failed load
  leaves and the host's input is as reset left it -/
  awaitingLoad : s.run = .halted → s.haltReason = .none →
    { s with mem := [], loadAttempted := false, quitSamples := [] } = State.reset
  /-- without a load since reset the machine is as reset left it (R284, log 6) -/
  notYetLoaded : s.loadAttempted = false → s = hostReset s

/-- The states the machine can be in: from reset, by steps and by what the host does. -/
inductive Reachable : State → Prop where
  | reset : Reachable State.reset
  | step {s t : State} (h : Reachable s) (e : Machine.step s = .next t) : Reachable t
  | host {s t : State} (o : HostOp) (h : Reachable s) (e : hostStep o s = .next t) : Reachable t

/-- A safe run: however many steps, the machine is in a state and has not faulted. -/
def SafeRun (s : State) : Prop := ∀ n : Nat, ∃ t, Sys2Proof.core.run n s = .next t ∧ t.haltReason ≠ .fault

/-! ### What an instruction may change -/

/-- What an instruction may change beside DR1: registers, memory cells by (bank, address), stack cells by offset, EQUAL,
DR2, and the program counter with JF. -/
structure Footprint where
  regs : List Reg := []
  mem : List (Byte × Byte) := []
  stack : List Byte := []
  equal : Bool := false
  dr2 : Bool := false
  pc : Bool := false

/-- From `s` to `t` nothing but the footprint and DR1 changed. -/
structure Frame (f : Footprint) (s t : State) : Prop where
  regs : ∀ r, r ∉ f.regs → readReg t r = readReg s r
  mem : ∀ b a, (b, a) ∉ f.mem → memRead t b a = memRead s b a
  stack : ∀ o, o ∉ f.stack → stackRead t o = stackRead s o
  equal : f.equal = false → t.flags.equal = s.flags.equal
  negative : t.flags.negative = s.flags.negative
  carry : t.flags.carry = s.flags.carry
  overflow : t.flags.overflow = s.flags.overflow
  dr2 : f.dr2 = false → t.dr2 = s.dr2
  pc : f.pc = false → t.pc = s.pc
  jf : f.pc = false → t.jf = s.jf
  run : t.run = s.run
  haltReason : t.haltReason = s.haltReason
  fault : t.fault = s.fault
  unk : t.unk = s.unk
  progLen : t.progLen = s.progLen
  loadAttempted : t.loadAttempted = s.loadAttempted
  quitSamples : t.quitSamples = s.quitSamples

/-! ### When an instruction faults -/

/-- The code that InvalidRegister reports, if the instruction raises it (60_exceptions.md R241): a latch with the role
"code" holds no valid code, "DR1's code before DR2's". -/
def Instr.faultCode (i : Instr) (dr2 : Byte) : Option Byte :=
  if i.wf = false then some i.operandByte
  else if i.latchWf dr2 = false then some dr2
  else none

/-! ### What the next step fetches -/

/-- The machine performs an instruction cycle that fetches (30_encoding.md R96 steps 1 to 3). -/
def Fetching (s : State) : Prop := s.run = .running ∧ s.pc.comp < s.progLen

/-- The opcode byte and the operand byte that this cycle fetches, after the roll-over (R91, R92). -/
def fetchedOpcode (s : State) : Byte := opcodeAt (beginCycle s)
def fetchedOperand (s : State) : Byte := operandAt (beginCycle s)

end Sys2Proof.Machine
end

