-- ==== Sys2Proof/Certificates/Slice0/Obligations.lean ====
section
/-! DEFINITION. The statements for the provers, one def per obligation; each docstring names the rules it formalises. -/

section
open Sys2Proof Sys2Proof.Machine

/-- Some words written out from the spec decode as it says, and what is no instruction is named. One word of each
family, written out from the spec's encoding lines under the default numbering (decision D1 of the spec, log 1),
decodes to its instruction, and 0x29 and 0xFF are unknown opcodes, which the function decode answers by that name
(log 10, DEDUCED). That a list of one byte is answered by the name truncated is the model's choice and no rule of
the spec, which knows no such input (log 19, DESIGN CHOICE). Rests on 30_encoding.md R90; 30_encoding.md R101;
30_encoding.md R102; 92_eei_decisions.md D1; 95_test_vectors.md. -/
def Obligations.WordsOfTheSpecDecode : Prop :=
  decode .default [0x00, 0xC8] = .ok (.nop 0xC8, []) ∧
  decode .default [0x01, 0x07, 0x07, 0x01] = .ok (.soi 0x07, [0x07, 0x01]) ∧
  decode .default [0x03, 0x0A] = .ok (.addi 0x0A, []) ∧
  decode .default [0x08, 0x01] = .ok (.cpy 0x01, []) ∧
  decode .default [0x0A, 0x03] = .ok (.rdp 0x03, []) ∧
  decode .default [0x0C, 0x02] = .ok (.lsr 0x02, []) ∧
  decode .default [0x0F, 0x20] = .ok (.jei 0x20, []) ∧
  decode .default [0x14, 0x01] = .ok (.cmpr 0x01, []) ∧
  decode .default [0x18, 0x01] = .ok (.mwr 0x01, []) ∧
  decode .default [0x1B, 0x00] = .ok (.pop 0x00, []) ∧
  decode .default [0x1D, 0x00] = .ok (.decb 0x00, []) ∧
  decode .default [0x26, 0x04] = .ok (.not 0x04, []) ∧
  decode .default [0x28, 0x03] = .ok (.bsr 0x03, []) ∧
  decode .default [0x29, 0x07] = .error (.unknownOpcode 0x29) ∧
  decode .default [0xFF, 0xFF] = .error (.unknownOpcode 0xFF) ∧
  decode .default [0x03] = .error .truncated

/-- Decoding an encoded instruction gives it back, under every numbering. For every injective OPCODE_MAP, every
instruction with every operand byte, and any bytes after it: decoding the encoded instruction gives the instruction
and those bytes. No instruction is shut out: an operand that is no valid register code decodes too. Rests on
30_encoding.md R90; 30_encoding.md R94; 30_encoding.md R101. -/
def Obligations.DecodeOfEncodeIsTheInstruction : Prop :=
  ∀ (m : OpcodeMap), m.wf → ∀ (i : Instr) (rest : List Byte), decode m (encode m i ++ rest) = .ok (i, rest)

/-- The bytes an instruction was decoded from are its encoding. For every OPCODE_MAP: when bytes decode to an
instruction and a rest, the bytes are the encoding of that instruction followed by the rest, so no two different
byte pairs decode to one instruction. Rests on 30_encoding.md R90; 30_encoding.md R95. -/
def Obligations.EncodeOfDecodeIsTheBytes : Prop :=
  ∀ (m : OpcodeMap) (bytes : List Byte) (i : Instr) (rest : List Byte),
    decode m bytes = .ok (i, rest) → bytes = encode m i ++ rest

/-- The model's decoder rejects exactly short input and unknown opcodes. That a decoder rejects at all is the form of
the model's function decode: the machine traps on no opcode byte, and a step runs an unknown opcode as a counted no-
operation (log 10, DEDUCED), and a byte list too short for an instruction is a case of the function only, which no
fetch meets (log 19, DESIGN CHOICE). Fewer than two bytes are rejected as truncated, and nothing else is. Two or
more bytes are rejected, as the unknown opcode they begin with, exactly when OPCODE_MAP assigns the first byte to no
operation. Under the default numbering (decision D1, log 1) these are the opcode bytes above 0x28. Rests on
30_encoding.md R90; 30_encoding.md R95; 30_encoding.md R102; 92_eei_decisions.md D1. -/
def Obligations.DecoderRejectsExactly : Prop :=
  (∀ (m : OpcodeMap) (bytes : List Byte), decode m bytes = .error .truncated ↔ bytes.length < 2) ∧
  (∀ (m : OpcodeMap) (op opnd : Byte) (rest : List Byte) (x : Byte),
    decode m (op :: opnd :: rest) = .error (.unknownOpcode x) ↔ x = op ∧ ∀ o, m o ≠ op) ∧
  (∀ op : Byte, (∀ o, OpcodeMap.default o ≠ op) ↔ 0x28 < op.toNat)

/-- Register codes 1 to 7 name seven distinct cells, every other code none. A code resolves exactly when it is 1 to 7,
code k names the k-th of A, B, C, D, BI, P, S, a register resolves from its own code, and a write to one register is
read back there and leaves every other register alone. Rests on 10_state.md R25; 00_scope.md R11; 95_test_vectors.md
T1. -/
def Obligations.RegisterCodesNameDistinctCells : Prop :=
  (∀ c : Byte, Reg.ofCode c = none ↔ c.toNat = 0 ∨ 7 < c.toNat) ∧
  [Reg.A, .B, .C, .D, .BI, .P, .S].map (fun r => (Reg.toCode r).toNat) = [1, 2, 3, 4, 5, 6, 7] ∧
  (∀ r : Reg, Reg.ofCode r.toCode = some r) ∧
  (∀ (s : State) (r q : Reg) (v : Byte), readReg (writeReg s r v) q = if q = r then v else readReg s q)

/-- A step runs the instruction decoded at the program counter. When the machine is RUNNING and PC has not reached
PROG_LEN, and the two bytes at PC, rolled over to address 0 of the next bank if PC.addr is 255, decode to an
instruction, the step is exec of that instruction at the state with JF cleared and PC rolled over, followed by
endCycle. That holds for every numbering, and step is the step of the default numbering. endCycle leaves a halted
state alone and otherwise is the PC advance and then the yield point. Rests on 30_encoding.md R91; 30_encoding.md
R92; 30_encoding.md R96; 92_eei_decisions.md D8, D9. -/
def Obligations.StepRunsTheDecodedInstruction : Prop :=
  (∀ (m : OpcodeMap) (s : State) (i : Instr), s.run = .running → s.pc.comp < s.progLen →
    ∀ pc : PC, pc = (if s.pc.addr = 255 then ⟨s.pc.bank + 1, 0⟩ else s.pc) →
    decode m [memRead s pc.bank pc.addr, memRead s pc.bank (pc.addr + 1)] = .ok (i, []) →
    stepWith m s = match exec i { s with jf := false, pc := pc } with
      | .next t => .next (endCycle t)
      | .fault r => .fault r
      | .refused r => .refused r) ∧
  (∀ t : State, endCycle t = if t.run = .halted then t else yieldPoint (advance t)) ∧
  (∀ s : State, step s = stepWith .default s)

/-- SOI and SOR load DR2 with the operand byte and do nothing else. Under every injective numbering, a cycle that
fetches SOI or SOR ends in the state with DR2 holding the operand byte, DR1 and everything else as before, and the
PC advance of a non-jump instruction, then the yield point; the register the operand of SOR names is not read. The
two opcodes behave identically. Rule R93. -/
def Obligations.SoiAndSorOnlyPrimeTheLatch : Prop :=
  ∀ (m : OpcodeMap), m.wf → ∀ s : State, Fetching s →
    fetchedOpcode s = m .soi ∨ fetchedOpcode s = m .sor →
    stepWith m s = .next (yieldPoint
      { s with dr2 := fetchedOperand s, jf := false, pc := advancePc (fetchPc s.pc) })

/-- Every other opcode loads DR1 with its operand byte and dispatches its routine. Under every injective numbering, a
cycle that fetches the opcode byte of an operation other than SOI and SOR runs the routine of that operation with
the operand byte; the routine starts from a state whose DR1 is the operand byte (what DR1 held before does not
matter), and leaves that byte in DR1, but for NOP, which clears DR1 and DR2. An opcode byte assigned to no operation
is rule R102: DR1 is loaded with the operand byte and no routine runs. Rule R94. -/
def Obligations.EveryOtherOpcodeLoadsDR1AndRuns : Prop :=
  ∀ (m : OpcodeMap), m.wf → ∀ s : State, Fetching s →
    (∀ o : Opcode, o ≠ .soi → o ≠ .sor → fetchedOpcode s = m o →
      ∃ t, stepWith m s = .next (endCycle t) ∧
        exec (Instr.ofOpcode o (fetchedOperand s)) (beginCycle s) = .next t ∧
        (∀ x : Byte, exec (Instr.ofOpcode o (fetchedOperand s)) { beginCycle s with dr1 := x } = .next t) ∧
        (o ≠ .nop → t.dr1 = fetchedOperand s) ∧ (o = .nop → t.dr1 = 0 ∧ t.dr2 = 0)) ∧
    ((∀ o : Opcode, fetchedOpcode s ≠ m o) →
      stepWith m s = .next (endCycle (unknownOpcode (beginCycle s) (fetchedOperand s))) ∧
      (unknownOpcode (beginCycle s) (fetchedOperand s)).dr1 = fetchedOperand s)

/-- An unknown opcode is counted, loads DR1 and does nothing else. When the fetched opcode byte is assigned to no
operation, the cycle ends in the state with DR1 holding the operand byte, UNK one higher, everything else as before
(DR2 too), and the PC advance of a non-jump instruction, then the yield point. Rule R102. -/
def Obligations.UnknownOpcodeIsCountedOnly : Prop :=
  ∀ (m : OpcodeMap) (s : State), Fetching s → (∀ o : Opcode, m o ≠ fetchedOpcode s) →
    stepWith m s = .next (yieldPoint
      { s with dr1 := fetchedOperand s, unk := s.unk + 1, jf := false, pc := advancePc (fetchPc s.pc) })

/-- The program counter after a completed instruction. After an instruction that completes, PC is what a taken jump made
it; without a taken jump it is (bank + 1, 0) if the instruction was fetched at address 254, else the same bank and
the address plus 2, where the fetch address is PC rolled over from 255. The bank after 255 is 0 (the spec's decision
D8). Rests on 30_encoding.md R97; 30_encoding.md R92; 30_encoding.md R98; 10_state.md R29; 92_eei_decisions.md D8. -/
def Obligations.ProgramCounterAfterAStep : Prop :=
  ∀ (m : OpcodeMap) (s t u : State) (i : Instr), Fetching s →
    decodePair m (fetchedOpcode s) (fetchedOperand s) = some i →
    exec i (beginCycle s) = .next t → t.run = .running → stepWith m s = .next u →
    (t.jf = true → u.pc = t.pc) ∧
    (t.jf = false → ∀ b a : Byte, (if s.pc.addr = 255 then ⟨s.pc.bank + 1, 0⟩ else s.pc) = PC.mk b a →
      (a.toNat = 254 → u.pc.bank.toNat = (b.toNat + 1) % 256 ∧ u.pc.addr = 0) ∧
      (a.toNat ≠ 254 → u.pc.bank = b ∧ u.pc.addr.toNat = a.toNat + 2))

/-- Reaching PROG_LEN halts with reason END before any fetch. When RUNNING and the composite PC is at or past PROG_LEN,
the step only sets RUN to HALTED and HALT_REASON to END. "Reaching" rather than "exceeds" is the spec's decision D9.
Rests on 60_exceptions.md R260; 60_exceptions.md R261; 92_eei_decisions.md D9. -/
def Obligations.EndOfProgramHalts : Prop :=
  ∀ (m : OpcodeMap) (s : State), s.run = .running → s.progLen ≤ s.pc.bank.toNat * 256 + s.pc.addr.toNat →
    stepWith m s = .next { s with run := .halted, haltReason := .endOfProgram }

/-- quit is sampled once per completed instruction, after the PC update. Take the outcome t of a step in which the host
presents no quit bit. If t is RUNNING (the instruction completed), then with a next bit q the step consumes exactly
that bit and ends in t, halted with reason QUIT if q is 1. If t is HALTED (END, FAULT or halted before), no bit is
consumed and the outcome is the same. The list of coming bits is the model's own field (log 2, DESIGN CHOICE), that
a step of a machine halted before answers the same state is the model's reading of "there is no step" (log 3,
DEDUCED), and that a cycle that faults ends in a next state is the model's form (log 5, DEDUCED). Rests on
60_exceptions.md R262; 60_exceptions.md R257; 30_encoding.md R96. -/
def Obligations.QuitIsSampledOncePerCompletedInstruction : Prop :=
  ∀ (m : OpcodeMap) (s t : State), stepWith m { s with quitSamples := [] } = .next t →
    (t.run = .running → ∀ rest : List Bool,
      stepWith m { s with quitSamples := false :: rest } = .next { t with quitSamples := rest } ∧
      stepWith m { s with quitSamples := true :: rest } =
        .next { t with quitSamples := rest, run := .halted, haltReason := .quit }) ∧
    (t.run = .halted → ∀ bits : List Bool,
      stepWith m { s with quitSamples := bits } = .next { t with quitSamples := bits })

/-- HALTED is left by no step, and by no host operation but the load that follows a reset. A HALTED machine stays in its
state for any number of steps. The only host operation that makes it RUNNING is the load of a complete image in the
state that reset leaves; if it has halted with a reason other than NONE, every load is refused, so that only reset
leads on. Presenting quit bits leaves it HALTED with everything else unchanged. That a step of a HALTED machine
answers the same state is the model's reading of "there is no step" (log 3, DEDUCED); the test for a state that
reset leaves and the refusal under a name are the model's (log 6, DESIGN CHOICE), and so is the list of quit bits
(log 2, DESIGN CHOICE). Rests on 10_state.md R42; 70_reset_and_hazards.md R281; 70_reset_and_hazards.md R282;
70_reset_and_hazards.md R284; 92_eei_decisions.md D16; 95_test_vectors.md V-HALT-1. -/
def Obligations.HaltedIsFinalUntilReset : Prop :=
  ∀ s : State, s.run = .halted →
    (∀ n : Nat, Sys2Proof.core.run n s = .next s) ∧
    (s.haltReason ≠ .none → ∀ src, hostStep (.load src) s = .refused .loadNotAfterReset) ∧
    (∀ (o : HostOp) (t : State), hostStep o s = .next t → t.run = .running →
      ∃ image, o = .load (.complete image) ∧ s = hostReset s) ∧
    (∀ bits, hostStep (.presentQuit bits) s = .next { s with quitSamples := bits })

/-- Every step and every instruction answers a next state. In every state, under every numbering, the step answers a
next state, and so does every instruction with every operand: no memory access, no opcode and no operand value ends
the model's run. Two cases are the model's form: the step of a HALTED machine answers the same state, where the spec
says that there is no step (log 3, DEDUCED), and an invalid register code ends in a next state, HALTED with the
FAULT record (log 5, DEDUCED). Rests on 60_exceptions.md R254; 93_implementation_defined.md section 2. -/
def Obligations.EveryStepAnswersANextState : Prop :=
  (∀ (m : OpcodeMap) (s : State), ∃ t, stepWith m s = .next t) ∧
  (∀ (i : Instr) (s : State), ∃ t, exec i s = .next t)

/-- The state after reset. After reset every register, every memory cell and every stack cell reads 0, PC is (0, 0), the
four flags, DR1, DR2 and JF are 0, UNK and PROG_LEN are 0, FAULT is all zero, RUN is HALTED and HALT_REASON is NONE.
The zeros of the flags, latches and stack are the spec's decision D11 (log 7). Rests on 70_reset_and_hazards.md
R280; 10_state.md R50; 92_eei_decisions.md D11. -/
def Obligations.ResetLeavesEverythingZeroAndHalted : Prop :=
  (∀ r : Reg, readReg State.reset r = 0) ∧ (∀ b a : Byte, memRead State.reset b a = 0) ∧
  (∀ o : Byte, stackRead State.reset o = 0) ∧ State.reset.pc = ⟨0, 0⟩ ∧
  State.reset.flags = ⟨false, false, false, false⟩ ∧ State.reset.dr1 = 0 ∧ State.reset.dr2 = 0 ∧
  State.reset.jf = false ∧ State.reset.run = .halted ∧ State.reset.haltReason = .none ∧
  State.reset.fault = ⟨.none, 0, 0, 0⟩ ∧ State.reset.unk = 0 ∧ State.reset.progLen = 0

/-- The invariant holds after reset. The machine's invariant Inv holds in the reset state. Rests on 10_state.md R50;
10_state.md R32; 10_state.md R42; 10_state.md R43. -/
def Obligations.ResetMeetsTheInvariant : Prop :=
  Inv State.reset

/-- Every step keeps the invariant. From every state that meets Inv, under every numbering, the next state meets Inv:
both memories stay canonical, the dead flags stay 0, PROG_LEN stays in range, HALT_REASON is NONE while RUNNING, END
only at or past PROG_LEN, the FAULT record is zero without a fault and after one holds an invalid code and the PC, a
machine that awaits its load is as reset left it but for what a failed load leaves and for input, and one without
any load since reset is as reset left it (log 6). Rests on 10_state.md R32; 10_state.md R42; 10_state.md R43;
10_state.md R45; 60_exceptions.md R242; 60_exceptions.md R244; 60_exceptions.md R258; 60_exceptions.md R260;
70_reset_and_hazards.md R282. -/
def Obligations.EveryStepKeepsTheInvariant : Prop :=
  ∀ (m : OpcodeMap) (s t : State), Inv s → stepWith m s = .next t → Inv t

/-- Reset, load and presenting quit bits keep the invariant. From every state that meets Inv, whatever the host does
that the machine accepts leads to a state that meets Inv. Rests on 70_reset_and_hazards.md R284;
70_reset_and_hazards.md R285; 70_reset_and_hazards.md R288. -/
def Obligations.HostOperationsKeepTheInvariant : Prop :=
  ∀ (o : HostOp) (s t : State), Inv s → hostStep o s = .next t → Inv t

/-- The invariant holds in every state the machine can be in. Every state reached from reset by any mix of steps and
host operations meets Inv. Rests on 10_state.md R32; 10_state.md R42; 10_state.md R43; 70_reset_and_hazards.md R288. -/
def Obligations.EveryReachableStateMeetsTheInvariant : Prop :=
  ∀ s : State, Reachable s → Inv s

/-- Canonical memories that read alike are equal. Two memories in canonical form that give the same byte at every key
are the same data, so comparing states compares what the machine can read. The sparse form is the model's (log 8).
Rests on 20_memory.md R60; 20_memory.md R65. -/
def Obligations.CanonicalMemoriesThatReadAlikeAreEqual : Prop :=
  ∀ (n : Nat) (m m' : Memory), Memory.wf n m → Memory.wf n m' → (∀ a, Memory.read m a = Memory.read m' a) → m = m'

/-- A banked memory write changes the named cell only, and a read gives the byte stored. For every state and all banks
and addresses: after Mem[b][a] <- v the cell (b, a) reads v, every other cell reads as before (display banks and
program text are no exception), every other piece of state is as before, and both bytes that a cycle fetches, from
PC rolled over to address 0 of the next bank if PC.addr is 255, are read from the cells as the write left them. That
the fetch rolls over at 255, to bank + 1 modulo 256, is the spec's decision D8 (log 13). Reading is a function of
the state: it changes nothing and gives the same value when repeated. Rests on 20_memory.md R62; 20_memory.md R63;
20_memory.md R80; 30_encoding.md R91; 30_encoding.md R92; 92_eei_decisions.md D8. -/
def Obligations.MemoryReadsTheLastWrite : Prop :=
  ∀ (s : State) (b a v : Byte),
    (∀ b' a' : Byte, memRead (memWrite s b a v) b' a' = if b' = b ∧ a' = a then v else memRead s b' a') ∧
    { memWrite s b a v with mem := s.mem } = s ∧
    (∀ pc : PC, pc = (if s.pc.addr = 255 then ⟨s.pc.bank + 1, 0⟩ else s.pc) →
      fetchedOpcode (memWrite s b a v) = (if pc.bank = b ∧ pc.addr = a then v else fetchedOpcode s) ∧
      fetchedOperand (memWrite s b a v) = (if pc.bank = b ∧ pc.addr + 1 = a then v else fetchedOperand s))

/-- The stack memory is a second address space. A stack write is read back at its offset and nowhere else in the stack,
changes no byte of banked memory, no write to banked memory changes a stack cell, and the contents of BI do not
matter to a stack access. Rule R65. -/
def Obligations.StackMemoryIsASpaceOfItsOwn : Prop :=
  ∀ (s : State) (o v : Byte),
    (∀ o' : Byte, stackRead (stackWrite s o v) o' = if o' = o then v else stackRead s o') ∧
    (∀ b a : Byte, memRead (stackWrite s o v) b a = memRead s b a) ∧
    (∀ b a : Byte, stackRead (memWrite s b a v) o = stackRead s o) ∧
    (∀ x : Byte, stackRead (writeReg s .BI x) o = stackRead s o ∧
      stackWrite (writeReg s .BI x) o v = writeReg (stackWrite s o v) .BI x)

/-- InvalidRegister is raised exactly on an invalid code, with nothing else written. For every instruction in every
state: if a latch whose role is "code" holds 0 or a value above 7 (DR1's reported before DR2's, also for a
conditional jump that would not be taken), the instruction ends in the state with DR1 loaded, FAULT =
(InvalidRegister, that code, PC), RUN HALTED, HALT_REASON FAULT and nothing else changed; otherwise it leaves RUN,
HALT_REASON and FAULT as they were. Precision and order are the spec's decision D12. That the fault is a next state
of exec is the model's form (log 5, DEDUCED). Rests on 60_exceptions.md R240; 60_exceptions.md R241;
60_exceptions.md R242; 60_exceptions.md R243; 60_exceptions.md R244; 92_eei_decisions.md D12. -/
def Obligations.InvalidRegisterExactlyAsListed : Prop :=
  (∀ (i : Instr) (s : State) (c : Byte), Instr.faultCode i s.dr2 = some c →
    exec i s = .next { s with
      dr1 := i.operandByte, fault := ⟨.invalidRegister, c, s.pc.bank, s.pc.addr⟩, run := .halted, haltReason := .fault }) ∧
  (∀ (i : Instr) (s t : State), Instr.faultCode i s.dr2 = none → exec i s = .next t →
    t.run = s.run ∧ t.haltReason = s.haltReason ∧ t.fault = s.fault)

/-- A cycle that faults keeps PC on the faulting opcode byte and samples no quit bit. A cycle whose instruction has an
invalid register code ends in the state before it, changed only by: DR1 loaded, JF cleared, PC rolled over if it was
at address 255, FAULT = (InvalidRegister, the code, that PC), RUN HALTED, HALT_REASON FAULT; the host's quit bits
are not consumed. Precision is the spec's decision D12 and the roll-over its decision D8 (log 13); that the faulting
cycle ends in a next state is the model's form (log 5, DEDUCED), and the list of quit bits is the model's own field
(log 2, DESIGN CHOICE). Rests on 60_exceptions.md R242; 60_exceptions.md R243; 60_exceptions.md R244;
60_exceptions.md R257; 30_encoding.md R92; 30_encoding.md R96; 92_eei_decisions.md D8, D12. -/
def Obligations.AFaultingCycleStopsWithThePcOfTheFault : Prop :=
  ∀ (m : OpcodeMap) (s : State) (i : Instr) (c : Byte), Fetching s →
    decodePair m (fetchedOpcode s) (fetchedOperand s) = some i → Instr.faultCode i s.dr2 = some c →
    stepWith m s = .next { s with
      dr1 := fetchedOperand s, jf := false, pc := fetchPc s.pc,
      fault := ⟨.invalidRegister, c, (fetchPc s.pc).bank, (fetchPc s.pc).addr⟩, run := .halted, haltReason := .fault }

/-- NOP clears DR1 and DR2 and changes nothing else. NOP with any operand byte, in any state, completes with DR1 = 0 and
DR2 = 0 and nothing else changed. Rests on 40_latch_nop.md R120. -/
def Obligations.NopClearsBothLatches : Prop :=
  ∀ (o : Byte) (s : State), ∃ t, exec (.nop o) s = .next t ∧ t.dr1 = 0 ∧ t.dr2 = 0 ∧ Frame { dr2 := true } s t

/-- SOI and SOR complete with DR2 holding the operand byte. SOI and SOR with any operand byte, in any state, complete
with DR2 = the operand byte, DR1 unchanged and nothing else changed. Rests on 40_latch_nop.md R121; 40_latch_nop.md
R122. -/
def Obligations.SoiAndSorComplete : Prop :=
  ∀ (v : Byte) (s : State),
    (∃ t, exec (.soi v) s = .next t ∧ t.dr2 = v ∧ t.dr1 = s.dr1 ∧ Frame { dr2 := true } s t) ∧
    (∃ t, exec (.sor v) s = .next t ∧ t.dr2 = v ∧ t.dr1 = s.dr1 ∧ Frame { dr2 := true } s t)

/-- ADDI and SUBI: A plus or minus the operand byte, modulo 256. ADDI and SUBI complete in any state with A = (A + v)
mod 256, respectively (A - v) mod 256, DR1 = v, and no flag, memory, stack or other register changed. Rests on
41_arithmetic.md R130; 41_arithmetic.md R132; 41_arithmetic.md R134. -/
def Obligations.AddAndSubtractImmediate : Prop :=
  ∀ (v : Byte) (s : State),
    (∃ t, exec (.addi v) s = .next t ∧
      (readReg t .A).toNat = ((readReg s .A).toNat + v.toNat) % 256 ∧ t.dr1 = v ∧ Frame { regs := [.A] } s t) ∧
    (∃ t, exec (.subi v) s = .next t ∧
      ((readReg t .A).toNat : Int) = ((readReg s .A).toNat - v.toNat : Int) % 256 ∧ t.dr1 = v ∧
      Frame { regs := [.A] } s t)

/-- ADDR and SUBR: A plus or minus the named register, modulo 256. ADDR and SUBR with the code of any register complete
in any state with A = (A + r) mod 256, respectively (A - r) mod 256, both read before the write (so ADDR A doubles
and SUBR A clears), and nothing else changed but DR1. That A is the minuend is the spec's decision D22. Rests on
41_arithmetic.md R131; 41_arithmetic.md R133; 92_eei_decisions.md D22. -/
def Obligations.AddAndSubtractRegister : Prop :=
  ∀ (r : Reg) (s : State),
    (∃ t, exec (.addr r.toCode) s = .next t ∧
      (readReg t .A).toNat = ((readReg s .A).toNat + (readReg s r).toNat) % 256 ∧ t.dr1 = r.toCode ∧
      Frame { regs := [.A] } s t) ∧
    (∃ t, exec (.subr r.toCode) s = .next t ∧
      ((readReg t .A).toNat : Int) = ((readReg s .A).toNat - (readReg s r).toNat : Int) % 256 ∧ t.dr1 = r.toCode ∧
      Frame { regs := [.A] } s t)

/-- LDI and CPY write the register named by DR1. LDI with the code of any register completes with that register = DR2.
CPY, with DR2 holding the code of any register, completes with the destination = that register, the source unchanged
unless it is the destination. Nothing else changes but DR1; DR2 is not consumed. Rests on 42_register_transfer.md
R140; 42_register_transfer.md R141. -/
def Obligations.LoadImmediateAndCopy : Prop :=
  ∀ (r : Reg) (s : State),
    (∃ t, exec (.ldi r.toCode) s = .next t ∧ readReg t r = s.dr2 ∧ t.dr1 = r.toCode ∧ Frame { regs := [r] } s t) ∧
    (∀ q : Reg, s.dr2 = q.toCode →
      ∃ t, exec (.cpy r.toCode) s = .next t ∧ readReg t r = readReg s q ∧ t.dr1 = r.toCode ∧ Frame { regs := [r] } s t)

/-- WRP and RDP move a byte between a register and Mem[BI][P]. WRP with the code of any register completes with
Mem[BI][P] = that register and every other byte, every register and flag unchanged. RDP completes with the register
= Mem[BI][P], BI and P read before the write, and nothing else changed. DR1 holds the code. That the data register
is named in DR1 is the spec's decision D3. Rests on 43_pointer_indirect.md R150; 43_pointer_indirect.md R151;
92_eei_decisions.md D3. -/
def Obligations.PointerWriteAndRead : Prop :=
  ∀ (r : Reg) (s : State),
    (∃ t, exec (.wrp r.toCode) s = .next t ∧ memRead t (readReg s .BI) (readReg s .P) = readReg s r ∧
      t.dr1 = r.toCode ∧ Frame { mem := [(readReg s .BI, readReg s .P)] } s t) ∧
    (∃ t, exec (.rdp r.toCode) s = .next t ∧ readReg t r = memRead s (readReg s .BI) (readReg s .P) ∧
      t.dr1 = r.toCode ∧ Frame { regs := [r] } s t)

/-- LSL doubles modulo 256, LSR halves. LSL and LSR with the code of any register complete with the register doubled
modulo 256, respectively halved rounding down, no flag written and nothing else changed but DR1. That zeros are
shifted in is general knowledge the spec supplies (K1, log 12). Rests on 44_shift.md R160; 44_shift.md R161;
44_shift.md R162; 93_implementation_defined.md K1. -/
def Obligations.ShiftsMoveOnePosition : Prop :=
  ∀ (r : Reg) (s : State),
    (∃ t, exec (.lsl r.toCode) s = .next t ∧ (readReg t r).toNat = (readReg s r).toNat * 2 % 256 ∧
      t.dr1 = r.toCode ∧ Frame { regs := [r] } s t) ∧
    (∃ t, exec (.lsr r.toCode) s = .next t ∧ (readReg t r).toNat = (readReg s r).toNat / 2 ∧
      t.dr1 = r.toCode ∧ Frame { regs := [r] } s t)

/-- JMPI and JMPR set PC to (bank, address) and JF to 1. JMPI completes with PC = (DR2, operand byte) and JF = 1. JMPR
with the codes of any two registers in DR1 and DR2 completes with PC = (bank in DR2's register, address in DR1's
register) and JF = 1. BI, DR2, the flags and everything else but DR1 are unchanged, and every target is accepted.
Which latch carries which part is the spec's decision D4. Rests on 45_branch_compare.md R170; 45_branch_compare.md
R171; 45_branch_compare.md R176; 92_eei_decisions.md D4. -/
def Obligations.UnconditionalJumpsSetBothPcBytes : Prop :=
  (∀ (a : Byte) (s : State), ∃ t, exec (.jmpi a) s = .next t ∧ t.pc = ⟨s.dr2, a⟩ ∧ t.jf = true ∧ t.dr1 = a ∧
    Frame { pc := true } s t) ∧
  (∀ (r q : Reg) (s : State), s.dr2 = q.toCode →
    ∃ t, exec (.jmpr r.toCode) s = .next t ∧ t.pc = ⟨readReg s q, readReg s r⟩ ∧ t.jf = true ∧ t.dr1 = r.toCode ∧
      Frame { pc := true } s t)

/-- JEI jumps exactly when EQUAL is set, JNEI exactly when it is clear. In every state exactly one of JEI and JNEI is
taken: the taken one completes with PC = (DR2, operand byte) and JF = 1, the other with PC and JF unchanged. Nothing
else changes but DR1; EQUAL is not cleared. Rests on 45_branch_compare.md R172; 45_branch_compare.md R174;
92_eei_decisions.md D4. -/
def Obligations.ConditionalJumpsImmediate : Prop :=
  ∀ (a : Byte) (s : State), ∃ t u, exec (.jei a) s = .next t ∧ exec (.jnei a) s = .next u ∧
    t.dr1 = a ∧ u.dr1 = a ∧
    (s.flags.equal = true → t.pc = ⟨s.dr2, a⟩ ∧ t.jf = true ∧ Frame { pc := true } s t ∧ Frame {} s u) ∧
    (s.flags.equal = false → u.pc = ⟨s.dr2, a⟩ ∧ u.jf = true ∧ Frame { pc := true } s u ∧ Frame {} s t)

/-- JER jumps exactly when EQUAL is set, JNER exactly when it is clear. With the codes of any two registers in DR1 and
DR2, exactly one of JER and JNER is taken: the taken one completes with PC = (bank in DR2's register, address in
DR1's register) and JF = 1, the other with PC and JF unchanged. Nothing else changes but DR1. Rests on
45_branch_compare.md R173; 45_branch_compare.md R175; 92_eei_decisions.md D4. -/
def Obligations.ConditionalJumpsRegister : Prop :=
  ∀ (r q : Reg) (s : State), s.dr2 = q.toCode →
    ∃ t u, exec (.jer r.toCode) s = .next t ∧ exec (.jner r.toCode) s = .next u ∧
    t.dr1 = r.toCode ∧ u.dr1 = r.toCode ∧
    (s.flags.equal = true →
      t.pc = ⟨readReg s q, readReg s r⟩ ∧ t.jf = true ∧ Frame { pc := true } s t ∧ Frame {} s u) ∧
    (s.flags.equal = false →
      u.pc = ⟨readReg s q, readReg s r⟩ ∧ u.jf = true ∧ Frame { pc := true } s u ∧ Frame {} s t)

/-- CMPI and CMPR set EQUAL when the operands are bit-equal and clear it otherwise. CMPI with the code of any register
completes with EQUAL = 1 exactly when the register and DR2 agree in all eight bits; CMPR with the codes of any two
registers, exactly when the two registers do. No register, no other flag and nothing else changes but DR1. Rests on
45_branch_compare.md R180; 45_branch_compare.md R181; 92_eei_decisions.md D5. -/
def Obligations.ComparesSetEqualOnBitEquality : Prop :=
  ∀ (r : Reg) (s : State),
    (∃ t, exec (.cmpi r.toCode) s = .next t ∧
      (t.flags.equal = true ↔ ∀ k, k < 8 → (readReg s r).getLsbD k = s.dr2.getLsbD k) ∧ t.dr1 = r.toCode ∧
      Frame { equal := true } s t) ∧
    (∀ q : Reg, s.dr2 = q.toCode → ∃ t, exec (.cmpr r.toCode) s = .next t ∧
      (t.flags.equal = true ↔ ∀ k, k < 8 → (readReg s r).getLsbD k = (readReg s q).getLsbD k) ∧ t.dr1 = r.toCode ∧
      Frame { equal := true } s t)

/-- MRI and MRR load a register from bank BI. MRI with the code of any register completes with the register =
Mem[BI][DR2]; MRR, with DR2 the code of any register, with the register = Mem[BI][that register]; BI and the address
are read before the write. Nothing else changes but DR1, no byte of memory among it. Rests on 46_memory_rw.md R190;
46_memory_rw.md R191; 92_eei_decisions.md D6. -/
def Obligations.MemoryReadInstructions : Prop :=
  ∀ (r : Reg) (s : State),
    (∃ t, exec (.mri r.toCode) s = .next t ∧ readReg t r = memRead s (readReg s .BI) s.dr2 ∧ t.dr1 = r.toCode ∧
      Frame { regs := [r] } s t) ∧
    (∀ q : Reg, s.dr2 = q.toCode → ∃ t, exec (.mrr r.toCode) s = .next t ∧
      readReg t r = memRead s (readReg s .BI) (readReg s q) ∧ t.dr1 = r.toCode ∧ Frame { regs := [r] } s t)

/-- MWI and MWR store a register into bank BI. MWI with the code of any register completes with Mem[BI][DR2] = the
register; MWR, with DR2 the code of any register, with Mem[BI][that register] = the register. Every other byte of
memory, every register, every flag and everything else but DR1 is unchanged. Rests on 46_memory_rw.md R192;
46_memory_rw.md R193; 92_eei_decisions.md D6. -/
def Obligations.MemoryWriteInstructions : Prop :=
  ∀ (r : Reg) (s : State),
    (∃ t, exec (.mwi r.toCode) s = .next t ∧ memRead t (readReg s .BI) s.dr2 = readReg s r ∧ t.dr1 = r.toCode ∧
      Frame { mem := [(readReg s .BI, s.dr2)] } s t) ∧
    (∀ q : Reg, s.dr2 = q.toCode → ∃ t, exec (.mwr r.toCode) s = .next t ∧
      memRead t (readReg s .BI) (readReg s q) = readReg s r ∧ t.dr1 = r.toCode ∧
      Frame { mem := [(readReg s .BI, readReg s q)] } s t)

/-- PUSHI writes the stack cell at S, then increments S modulo 256. PUSHI completes in any state with the stack cell at
the old S = the operand byte and S = (S + 1) mod 256; every other stack cell, all banked memory, every other
register and everything else but DR1 is unchanged. The wrap is the spec's decision D10. Rests on 47_stack.md R200;
60_exceptions.md R250; 92_eei_decisions.md D10. -/
def Obligations.PushImmediateWritesThenIncrements : Prop :=
  ∀ (v : Byte) (s : State), ∃ t, exec (.pushi v) s = .next t ∧ stackRead t (readReg s .S) = v ∧
    (readReg t .S).toNat = ((readReg s .S).toNat + 1) % 256 ∧ t.dr1 = v ∧
    Frame { regs := [.S], stack := [readReg s .S] } s t

/-- PUSHR pushes a register and then zeroes it. PUSHR with the code of any register completes with the stack cell at the
old S = the register, the register = 0, and S = (S + 1) mod 256 unless the register is S itself, which ends 0 (the
spec's decision D18). Every other stack cell, all banked memory, every other register and everything else but DR1 is
unchanged. Rests on 47_stack.md R201; 60_exceptions.md R250; 92_eei_decisions.md D10, D18. -/
def Obligations.PushRegisterZeroesItsSource : Prop :=
  ∀ (r : Reg) (s : State), ∃ t, exec (.pushr r.toCode) s = .next t ∧ stackRead t (readReg s .S) = readReg s r ∧
    readReg t r = 0 ∧ (r ≠ .S → (readReg t .S).toNat = ((readReg s .S).toNat + 1) % 256) ∧ t.dr1 = r.toCode ∧
    Frame { regs := [.S, r], stack := [readReg s .S] } s t

/-- POP decrements S modulo 256, then reads into B. POP with any operand byte completes in any state with S = (S - 1)
mod 256 and B = the stack cell at the new S. No stack cell, no byte of memory, no other register and nothing else
but DR1 changes. Rests on 47_stack.md R202; 60_exceptions.md R250; 92_eei_decisions.md D10. -/
def Obligations.PopAlwaysIntoB : Prop :=
  ∀ (o : Byte) (s : State), ∃ t, exec (.pop o) s = .next t ∧
    ((readReg t .S).toNat : Int) = ((readReg s .S).toNat - 1 : Int) % 256 ∧ readReg t .B = stackRead s (readReg t .S) ∧
    t.dr1 = o ∧ Frame { regs := [.S, .B] } s t

/-- A pop after a push gives the pushed byte in B and the old S. From any state, PUSHI v then POP leaves B = v and S as
it was; PUSHR of any register but S then POP leaves B = the value pushed, S as it was and the register pushed 0
(unless it is B). It holds at every S, the wrap at 255 included, which is the spec's decision D10. Rests on
47_stack.md R200; 47_stack.md R201; 47_stack.md R202; 60_exceptions.md R250; 70_reset_and_hazards.md R292;
92_eei_decisions.md D10; 95_test_vectors.md T7. -/
def Obligations.PushThenPop : Prop :=
  ∀ (s : State) (o : Byte),
    (∀ (v : Byte), ∃ t u, exec (.pushi v) s = .next t ∧ exec (.pop o) t = .next u ∧ readReg u .B = v ∧
      readReg u .S = readReg s .S) ∧
    (∀ (r : Reg), r ≠ .S → ∃ t u, exec (.pushr r.toCode) s = .next t ∧ exec (.pop o) t = .next u ∧
      readReg u .B = readReg s r ∧ readReg u .S = readReg s .S ∧ (r ≠ .B → readReg u r = 0))

/-- INCB and DECB change the byte at (BI, P) by one, modulo 256. INCB and DECB with any operand byte complete in any
state with Mem[BI][P] one higher, respectively one lower, modulo 256; every other byte, every register (BI and P
among them), every flag and everything else but DR1 is unchanged. Rests on 48_incdec.md R210; 48_incdec.md R211. -/
def Obligations.IncrementAndDecrementTheByteAtP : Prop :=
  ∀ (o : Byte) (s : State),
    (∃ t, exec (.incb o) s = .next t ∧
      (memRead t (readReg s .BI) (readReg s .P)).toNat = ((memRead s (readReg s .BI) (readReg s .P)).toNat + 1) % 256 ∧
      t.dr1 = o ∧ Frame { mem := [(readReg s .BI, readReg s .P)] } s t) ∧
    (∃ t, exec (.decb o) s = .next t ∧
      ((memRead t (readReg s .BI) (readReg s .P)).toNat : Int) =
        ((memRead s (readReg s .BI) (readReg s .P)).toNat - 1 : Int) % 256 ∧
      t.dr1 = o ∧ Frame { mem := [(readReg s .BI, readReg s .P)] } s t)

/-- INCR and DECR change a register by one, modulo 256. INCR and DECR with the code of any register complete in any
state with the register one higher, respectively one lower, modulo 256, and nothing else changed but DR1: no carry
goes anywhere. Rests on 48_incdec.md R212; 48_incdec.md R213; 95_test_vectors.md T3. -/
def Obligations.IncrementAndDecrementARegister : Prop :=
  ∀ (r : Reg) (s : State),
    (∃ t, exec (.incr r.toCode) s = .next t ∧ (readReg t r).toNat = ((readReg s r).toNat + 1) % 256 ∧
      t.dr1 = r.toCode ∧ Frame { regs := [r] } s t) ∧
    (∃ t, exec (.decr r.toCode) s = .next t ∧ ((readReg t r).toNat : Int) = ((readReg s r).toNat - 1 : Int) % 256 ∧
      t.dr1 = r.toCode ∧ Frame { regs := [r] } s t)

/-- ANDI, ORI and XORI combine the operand byte into the register named by DR2. With DR2 the code of any register, ANDI,
ORI and XORI complete with every bit of that register the and, or, exclusive or of its old value and the operand
byte, and nothing else changed but DR1. The truth tables are general knowledge the spec supplies (K2, log 12). Rests
on 49_logic_bankswitch.md R220; 49_logic_bankswitch.md R222; 49_logic_bankswitch.md R224; 00_scope.md R9;
93_implementation_defined.md K2. -/
def Obligations.LogicImmediateBitByBit : Prop :=
  ∀ (v : Byte) (d : Reg) (s : State), s.dr2 = d.toCode →
    (∃ t, exec (.andi v) s = .next t ∧
      (∀ k, (readReg t d).getLsbD k = ((readReg s d).getLsbD k && v.getLsbD k)) ∧ t.dr1 = v ∧ Frame { regs := [d] } s t) ∧
    (∃ t, exec (.ori v) s = .next t ∧
      (∀ k, (readReg t d).getLsbD k = ((readReg s d).getLsbD k || v.getLsbD k)) ∧ t.dr1 = v ∧ Frame { regs := [d] } s t) ∧
    (∃ t, exec (.xori v) s = .next t ∧
      (∀ k, (readReg t d).getLsbD k = ((readReg s d).getLsbD k ^^ v.getLsbD k)) ∧ t.dr1 = v ∧ Frame { regs := [d] } s t)

/-- ANDR, ORR and XORR combine one register into the register named by DR2. With DR1 the code of any register and DR2
the code of any register, ANDR, ORR and XORR complete with every bit of DR2's register the and, or, exclusive or of
the two old values (the same register included), and nothing else changed but DR1. The truth tables are general
knowledge the spec supplies (K2, log 12). Rests on 49_logic_bankswitch.md R221; 49_logic_bankswitch.md R223;
49_logic_bankswitch.md R225; 00_scope.md R9; 93_implementation_defined.md K2. -/
def Obligations.LogicRegisterBitByBit : Prop :=
  ∀ (r d : Reg) (s : State), s.dr2 = d.toCode →
    (∃ t, exec (.andr r.toCode) s = .next t ∧
      (∀ k, (readReg t d).getLsbD k = ((readReg s d).getLsbD k && (readReg s r).getLsbD k)) ∧ t.dr1 = r.toCode ∧
      Frame { regs := [d] } s t) ∧
    (∃ t, exec (.orr r.toCode) s = .next t ∧
      (∀ k, (readReg t d).getLsbD k = ((readReg s d).getLsbD k || (readReg s r).getLsbD k)) ∧ t.dr1 = r.toCode ∧
      Frame { regs := [d] } s t) ∧
    (∃ t, exec (.xorr r.toCode) s = .next t ∧
      (∀ k, (readReg t d).getLsbD k = ((readReg s d).getLsbD k ^^ (readReg s r).getLsbD k)) ∧ t.dr1 = r.toCode ∧
      Frame { regs := [d] } s t)

/-- NOT replaces a register by 255 minus its value. NOT with the code of any register completes in any state with the
register = 255 - its old value, and nothing else changed but DR1. That NOT inverts every bit, which gives 255 - v,
is general knowledge the spec supplies (K2, PRESUMED in log 12), and that its one operand is the register it changes
is the spec's decision D7 (log 13). Rests on 49_logic_bankswitch.md R226; 00_scope.md R9; 92_eei_decisions.md D7;
93_implementation_defined.md K2. -/
def Obligations.NotComplementsARegister : Prop :=
  ∀ (r : Reg) (s : State), ∃ t, exec (.not r.toCode) s = .next t ∧
    (readReg t r).toNat = 255 - (readReg s r).toNat ∧ t.dr1 = r.toCode ∧ Frame { regs := [r] } s t

/-- BSI and BSR write BI and never touch PC. BSI completes in any state with BI = the operand byte, BSR with the code of
any register with BI = that register; PC, memory, every other register and everything else but DR1 is unchanged.
Rests on 49_logic_bankswitch.md R227; 49_logic_bankswitch.md R228; 92_eei_decisions.md D7. -/
def Obligations.BankSwitchWritesOnlyBI : Prop :=
  (∀ (b : Byte) (s : State), ∃ t, exec (.bsi b) s = .next t ∧ readReg t .BI = b ∧ t.dr1 = b ∧
    Frame { regs := [.BI] } s t) ∧
  (∀ (r : Reg) (s : State), ∃ t, exec (.bsr r.toCode) s = .next t ∧ readReg t .BI = readReg s r ∧ t.dr1 = r.toCode ∧
    Frame { regs := [.BI] } s t)

/-- EQUAL is written by CMPI and CMPR only, on every execution, and read by the conditional jumps only. A step, under
every numbering, changes EQUAL only if it fetched CMPI or CMPR; each of these that executes sets EQUAL when the
operands are bit-equal and clears it otherwise; and an instruction that is no conditional jump does the same
whatever EQUAL holds, apart from EQUAL itself. Which operands are compared, the register coded by DR1 against DR2 or
the register coded by DR2, is the spec's decision D5 (log 13). Rests on 10_state.md R31; 45_branch_compare.md R180;
45_branch_compare.md R181; 92_eei_decisions.md D5. -/
def Obligations.EqualBelongsToTheComparesAndTheConditionalJumps : Prop :=
  (∀ (m : OpcodeMap) (s t : State), stepWith m s = .next t → t.flags.equal ≠ s.flags.equal →
    Fetching s ∧ (fetchedOpcode s = m .cmpi ∨ fetchedOpcode s = m .cmpr)) ∧
  (∀ (r : Reg) (s : State), ∃ t, exec (.cmpi r.toCode) s = .next t ∧ t.flags.equal = decide (readReg s r = s.dr2)) ∧
  (∀ (r q : Reg) (s : State), s.dr2 = q.toCode →
    ∃ t, exec (.cmpr r.toCode) s = .next t ∧ t.flags.equal = decide (readReg s r = readReg s q)) ∧
  (∀ (i : Instr) (s t : State) (e : Bool), i.opcode ∉ [Opcode.jei, .jer, .jnei, .jner] → exec i s = .next t →
    ∃ e', exec i { s with flags := { s.flags with equal := e } } =
      .next { t with flags := { t.flags with equal := e' } })

/-- NEGATIVE, CARRY and OVERFLOW have no writer and no reader. No step changes NEGATIVE, CARRY or OVERFLOW, and every
instruction does the same whatever they hold, apart from those three themselves. That they are dead is the spec's
decision D14. Rests on 10_state.md R32; 92_eei_decisions.md D14. -/
def Obligations.DeadFlagsAreNeverWrittenNorRead : Prop :=
  (∀ (m : OpcodeMap) (s t : State), stepWith m s = .next t →
    t.flags.negative = s.flags.negative ∧ t.flags.carry = s.flags.carry ∧ t.flags.overflow = s.flags.overflow) ∧
  (∀ (i : Instr) (s t : State) (n c v : Bool), exec i s = .next t →
    exec i { s with flags := ⟨n, c, s.flags.equal, v⟩ } = .next { t with flags := ⟨n, c, t.flags.equal, v⟩ })

/-- DR2 is written by SOI, SOR and NOP only and read by the two-operand instructions only. A step, under every
numbering, changes DR2 only if it fetched SOI, SOR or NOP, so a two-operand instruction does not clear it; and an
instruction whose table row gives DR2 no role does the same whatever DR2 holds, apart from DR2 itself. The list of
rows rests in part on the spec's decisions D3 to D7. Rests on 10_state.md R37; 30_encoding.md R99;
70_reset_and_hazards.md R290. -/
def Obligations.OperandLatchWritersAndReaders : Prop :=
  (∀ (m : OpcodeMap) (s t : State), stepWith m s = .next t → t.dr2 ≠ s.dr2 →
    Fetching s ∧ (fetchedOpcode s = m .soi ∨ fetchedOpcode s = m .sor ∨ fetchedOpcode s = m .nop)) ∧
  (∀ (i : Instr) (s t : State) (x : Byte), i.dr2Role ≠ .value → i.dr2Role ≠ .code → exec i s = .next t →
    ∃ x', exec i { s with dr2 := x } = .next { t with dr2 := x' })

/-- What DR1 holds between instructions is never read. Two states that differ only in DR1 step to states that differ at
most in DR1 (the spec derives this in R36). Rests on 10_state.md R36. -/
def Obligations.DR1IsInvisible : Prop :=
  ∀ (m : OpcodeMap) (s t : State) (x : Byte), stepWith m s = .next t →
    ∃ y, stepWith m { s with dr1 := x } = .next { t with dr1 := y }

/-- No instruction reads quit, RUN, HALT_REASON, FAULT, UNK or PROG_LEN. An instruction does the same whatever UNK,
PROG_LEN, the record of a load and the coming quit bits hold and leaves them as they are (the last two fields are
the model's own, logs 6 and 2); and, when it raises no fault, the same holds of RUN, HALT_REASON and FAULT. Rests on
00_scope.md R6; 10_state.md R33; 60_exceptions.md R248. -/
def Obligations.InstructionsCannotReadHostStatus : Prop :=
  ∀ (i : Instr) (s t : State), exec i s = .next t →
    (∀ (u n : Nat) (l : Bool) (q : List Bool),
      exec i { s with unk := u, progLen := n, loadAttempted := l, quitSamples := q } =
        .next { t with unk := u, progLen := n, loadAttempted := l, quitSamples := q }) ∧
    (Instr.faultCode i s.dr2 = none → ∀ (r : RunState) (h : HaltReason) (f : FaultRecord),
      exec i { s with run := r, haltReason := h, fault := f } = .next { t with run := r, haltReason := h, fault := f })

/-- No instruction reads PC, and only a taken jump writes it. Where an instruction raises no fault, moving it to another
PC changes nothing but the PC it leaves: the same new PC if it is a taken jump, the other PC itself if it is not. A
taken jump is one of the six jump instructions. Rests on 10_state.md R28; 49_logic_bankswitch.md R227. -/
def Obligations.InstructionsDoNotReadThePc : Prop :=
  ∀ (i : Instr) (s t : State) (p : PC), s.jf = false → Instr.faultCode i s.dr2 = none → exec i s = .next t →
    exec i { s with pc := p } = .next { t with pc := if t.jf then t.pc else p } ∧
    (t.jf = true → i.opcode ∈ [Opcode.jmpi, .jmpr, .jei, .jer, .jnei, .jner]) ∧
    (t.jf = false → t.pc = s.pc)

/-- Data accesses to banked memory: which instructions, and always in bank BI. An instruction changes a memory cell only
if it is WRP, INCB, DECB, MWI or MWR, and then only a cell of bank BI; an instruction that is none of these nor RDP,
MRI, MRR does the same whatever banked memory holds; and RDP, MRI, MRR depend only on bank BI. Rests on 20_memory.md
R64; 20_memory.md R61; 10_state.md R22. -/
def Obligations.OnlyTheListedInstructionsReachBankedMemory : Prop :=
  (∀ (i : Instr) (s t : State) (b a : Byte), exec i s = .next t → memRead t b a ≠ memRead s b a →
    i.opcode ∈ [Opcode.wrp, .incb, .decb, .mwi, .mwr] ∧ b = readReg s .BI) ∧
  (∀ (i : Instr) (s t : State) (mem' : Memory), i.opcode ∉ [Opcode.wrp, .incb, .decb, .mwi, .mwr] →
    (i.opcode ∈ [Opcode.rdp, .mri, .mrr] →
      ∀ a, memRead { s with mem := mem' } (readReg s .BI) a = memRead s (readReg s .BI) a) →
    exec i s = .next t → exec i { s with mem := mem' } = .next { t with mem := mem' })

/-- PUSHI and PUSHR write the stack cell at S, POP reads the one at S - 1, and nothing else reaches the stack memory. An
instruction changes a stack cell only if it is PUSHI or PUSHR, and then only the cell at S. An instruction that is
none of PUSHI, PUSHR, POP does the same whatever the stack memory holds. POP does the same in any two states that
differ only in the stack memory and agree on the cell at S - 1, which is S after the decrement. PUSHI and PUSHR read
no stack cell: whatever the stack memory holds, they leave everything outside it the same, and, when they raise no
fault, the same byte at S. Rests on 20_memory.md R65; 20_memory.md R66; 47_stack.md R200; 47_stack.md R201;
47_stack.md R202. -/
def Obligations.OnlyPushAndPopReachTheStack : Prop :=
  (∀ (i : Instr) (s t : State) (o : Byte), exec i s = .next t → stackRead t o ≠ stackRead s o →
    i.opcode ∈ [Opcode.pushi, .pushr] ∧ o = readReg s .S) ∧
  (∀ (i : Instr) (s t : State) (stack' : Memory), i.opcode ∉ [Opcode.pushi, .pushr] →
    (i.opcode = .pop → stackRead { s with stack := stack' } (readReg s .S - 1) = stackRead s (readReg s .S - 1)) →
    exec i s = .next t → exec i { s with stack := stack' } = .next { t with stack := stack' }) ∧
  (∀ (i : Instr) (s t : State) (stack' : Memory), i.opcode ∈ [Opcode.pushi, .pushr] → exec i s = .next t →
    ∃ u, exec i { s with stack := stack' } = .next u ∧ { u with stack := t.stack } = t ∧
      (Instr.faultCode i s.dr2 = none → stackRead u (readReg s .S) = stackRead t (readReg s .S)))

/-- A step never changes PROG_LEN and raises UNK exactly for an unknown opcode. No step changes PROG_LEN. A step raises
UNK by one if it fetches an opcode byte assigned to no operation, and leaves it alone otherwise. That UNK is a
counter is the spec's decision D13. Rests on 10_state.md R44; 10_state.md R45; 60_exceptions.md R248;
92_eei_decisions.md D13. -/
def Obligations.ProgramLengthAndUnknownCount : Prop :=
  ∀ (m : OpcodeMap) (s t : State), stepWith m s = .next t → t.progLen = s.progLen ∧
    (Fetching s → (∀ o : Opcode, m o ≠ fetchedOpcode s) → t.unk = s.unk + 1) ∧
    (∀ o : Opcode, m o = fetchedOpcode s → t.unk = s.unk) ∧ (¬ Fetching s → t.unk = s.unk)

/-- PC.addr stays even as long as no jump targets an odd address. From a state with an even PC.addr, a step leads to an
even PC.addr, unless the instruction it ran was one of the six jumps and left an odd address (the spec derives this
in R29). Rests on 10_state.md R29; 70_reset_and_hazards.md R297. -/
def Obligations.PcStaysEvenWithoutJumps : Prop :=
  ∀ (m : OpcodeMap) (s t : State), s.pc.addr.toNat % 2 = 0 → stepWith m s = .next t → t.pc.addr.toNat % 2 = 1 →
    ∃ i u, decodePair m (fetchedOpcode s) (fetchedOperand s) = some i ∧
      i.opcode ∈ [Opcode.jmpi, .jmpr, .jei, .jer, .jnei, .jner] ∧ exec i (beginCycle s) = .next u ∧ u.jf = true ∧
      u.pc.addr.toNat % 2 = 1

/-- load puts byte i at bank i div 256, address i mod 256, and starts the machine at (0, 0). After reset, loading an
image of at most 65,536 bytes succeeds: byte i is at (i div 256, i mod 256), every cell past the image reads 0,
PROG_LEN is the length, PC is (0, 0), RUN is RUNNING with HALT_REASON NONE, and every register, flag, latch and
stack cell is as reset left it. The record that a load was performed is the model's own field (log 6). Rests on
70_reset_and_hazards.md R284; 70_reset_and_hazards.md R286; 92_eei_decisions.md D19. -/
def Obligations.LoadPlacesTheImage : Prop :=
  ∀ (image : List Byte) (s : State), image.length ≤ 65536 → ∃ t, load (.complete image) (hostReset s) = .next t ∧
    (∀ (i : Nat) (v : Byte), image[i]? = some v →
      memRead t (BitVec.ofNat 8 (i / 256)) (BitVec.ofNat 8 (i % 256)) = v) ∧
    (∀ b a : Byte, image.length ≤ b.toNat * 256 + a.toNat → memRead t b a = 0) ∧
    { t with mem := [] } =
      { State.reset with
        progLen := image.length, run := .running, loadAttempted := true, quitSamples := s.quitSamples }

/-- Loads that are refused, and the load that fails. An image over 65,536 bytes is refused after reset; a second load
after a load that succeeded is refused, and so is a load of a machine that is RUNNING; a load whose source fails and
which the model accepts (after reset and at most 65,536 bytes, as a source that fails after more is refused by the
model's choice, log 20) leaves RUN HALTED with reason NONE and PROG_LEN 0, so that no step does anything, and after
it every load is refused until reset, after which a load of an image of at most 65,536 bytes starts the machine. The
form of the refusals and the test for a machine that has just been reset are the model's (log 6, DESIGN CHOICE), and
that a step of a HALTED machine answers the same state is too (log 3, DEDUCED). Rests on 70_reset_and_hazards.md
R284; 70_reset_and_hazards.md R285; 60_exceptions.md R252; 92_eei_decisions.md D19. -/
def Obligations.LoadRefusedOrFailed : Prop :=
  (∀ (image : List Byte) (s : State), 65536 < image.length →
    load (.complete image) (hostReset s) = .refused .imageTooLong) ∧
  (∀ (src src' : ImageSource) (s t : State) (bytes : List Byte), src = .complete bytes → load src s = .next t →
    load src' t = .refused .loadNotAfterReset) ∧
  (∀ (src : ImageSource) (s : State), s.run = .running → load src s = .refused .loadNotAfterReset) ∧
  (∀ (part : List Byte) (s t : State), load (.ioFailure part) s = .next t →
    t.run = .halted ∧ t.haltReason = .none ∧ t.progLen = 0 ∧ step t = .next t ∧
    (∀ src : ImageSource, load src t = .refused .loadNotAfterReset) ∧
    (∀ image : List Byte, image.length ≤ 65536 → ∃ u, load (.complete image) (hostReset t) = .next u ∧ u.run = .running))

end
end

