-- ==== Sys2Proof/Laws/State.lean ====
section
/-! SUPPORT. One lemma per field per named update of the state, true by unfolding; the simp set of the model. -/
namespace Sys2Proof.Machine

section
variable (s : State)

/-! writeReg -/

@[simp] theorem writeReg_regs (r : Reg) (v : Byte) : (writeReg s r v).regs = s.regs.set r v := rfl
@[simp] theorem writeReg_pc (r : Reg) (v : Byte) : (writeReg s r v).pc = s.pc := rfl
@[simp] theorem writeReg_flags (r : Reg) (v : Byte) : (writeReg s r v).flags = s.flags := rfl
@[simp] theorem writeReg_dr1 (r : Reg) (v : Byte) : (writeReg s r v).dr1 = s.dr1 := rfl
@[simp] theorem writeReg_dr2 (r : Reg) (v : Byte) : (writeReg s r v).dr2 = s.dr2 := rfl
@[simp] theorem writeReg_jf (r : Reg) (v : Byte) : (writeReg s r v).jf = s.jf := rfl
@[simp] theorem writeReg_mem (r : Reg) (v : Byte) : (writeReg s r v).mem = s.mem := rfl
@[simp] theorem writeReg_stack (r : Reg) (v : Byte) : (writeReg s r v).stack = s.stack := rfl
@[simp] theorem writeReg_run (r : Reg) (v : Byte) : (writeReg s r v).run = s.run := rfl
@[simp] theorem writeReg_haltReason (r : Reg) (v : Byte) : (writeReg s r v).haltReason = s.haltReason := rfl
@[simp] theorem writeReg_fault (r : Reg) (v : Byte) : (writeReg s r v).fault = s.fault := rfl
@[simp] theorem writeReg_unk (r : Reg) (v : Byte) : (writeReg s r v).unk = s.unk := rfl
@[simp] theorem writeReg_progLen (r : Reg) (v : Byte) : (writeReg s r v).progLen = s.progLen := rfl
@[simp] theorem writeReg_loadAttempted (r : Reg) (v : Byte) : (writeReg s r v).loadAttempted = s.loadAttempted := rfl
@[simp] theorem writeReg_quitSamples (r : Reg) (v : Byte) : (writeReg s r v).quitSamples = s.quitSamples := rfl

/-! memWrite -/

@[simp] theorem memWrite_regs (b a v : Byte) : (memWrite s b a v).regs = s.regs := rfl
@[simp] theorem memWrite_pc (b a v : Byte) : (memWrite s b a v).pc = s.pc := rfl
@[simp] theorem memWrite_flags (b a v : Byte) : (memWrite s b a v).flags = s.flags := rfl
@[simp] theorem memWrite_dr1 (b a v : Byte) : (memWrite s b a v).dr1 = s.dr1 := rfl
@[simp] theorem memWrite_dr2 (b a v : Byte) : (memWrite s b a v).dr2 = s.dr2 := rfl
@[simp] theorem memWrite_jf (b a v : Byte) : (memWrite s b a v).jf = s.jf := rfl
@[simp] theorem memWrite_mem (b a v : Byte) : (memWrite s b a v).mem = Memory.write s.mem (cellKey b a) v := rfl
@[simp] theorem memWrite_stack (b a v : Byte) : (memWrite s b a v).stack = s.stack := rfl
@[simp] theorem memWrite_run (b a v : Byte) : (memWrite s b a v).run = s.run := rfl
@[simp] theorem memWrite_haltReason (b a v : Byte) : (memWrite s b a v).haltReason = s.haltReason := rfl
@[simp] theorem memWrite_fault (b a v : Byte) : (memWrite s b a v).fault = s.fault := rfl
@[simp] theorem memWrite_unk (b a v : Byte) : (memWrite s b a v).unk = s.unk := rfl
@[simp] theorem memWrite_progLen (b a v : Byte) : (memWrite s b a v).progLen = s.progLen := rfl
@[simp] theorem memWrite_loadAttempted (b a v : Byte) : (memWrite s b a v).loadAttempted = s.loadAttempted := rfl
@[simp] theorem memWrite_quitSamples (b a v : Byte) : (memWrite s b a v).quitSamples = s.quitSamples := rfl

/-! stackWrite -/

@[simp] theorem stackWrite_regs (o v : Byte) : (stackWrite s o v).regs = s.regs := rfl
@[simp] theorem stackWrite_pc (o v : Byte) : (stackWrite s o v).pc = s.pc := rfl
@[simp] theorem stackWrite_flags (o v : Byte) : (stackWrite s o v).flags = s.flags := rfl
@[simp] theorem stackWrite_dr1 (o v : Byte) : (stackWrite s o v).dr1 = s.dr1 := rfl
@[simp] theorem stackWrite_dr2 (o v : Byte) : (stackWrite s o v).dr2 = s.dr2 := rfl
@[simp] theorem stackWrite_jf (o v : Byte) : (stackWrite s o v).jf = s.jf := rfl
@[simp] theorem stackWrite_mem (o v : Byte) : (stackWrite s o v).mem = s.mem := rfl
@[simp] theorem stackWrite_stack (o v : Byte) : (stackWrite s o v).stack = Memory.write s.stack o.toNat v := rfl
@[simp] theorem stackWrite_run (o v : Byte) : (stackWrite s o v).run = s.run := rfl
@[simp] theorem stackWrite_haltReason (o v : Byte) : (stackWrite s o v).haltReason = s.haltReason := rfl
@[simp] theorem stackWrite_fault (o v : Byte) : (stackWrite s o v).fault = s.fault := rfl
@[simp] theorem stackWrite_unk (o v : Byte) : (stackWrite s o v).unk = s.unk := rfl
@[simp] theorem stackWrite_progLen (o v : Byte) : (stackWrite s o v).progLen = s.progLen := rfl
@[simp] theorem stackWrite_loadAttempted (o v : Byte) : (stackWrite s o v).loadAttempted = s.loadAttempted := rfl
@[simp] theorem stackWrite_quitSamples (o v : Byte) : (stackWrite s o v).quitSamples = s.quitSamples := rfl

/-! loadDR1 -/

@[simp] theorem loadDR1_regs (v : Byte) : (loadDR1 s v).regs = s.regs := rfl
@[simp] theorem loadDR1_pc (v : Byte) : (loadDR1 s v).pc = s.pc := rfl
@[simp] theorem loadDR1_flags (v : Byte) : (loadDR1 s v).flags = s.flags := rfl
@[simp] theorem loadDR1_dr1 (v : Byte) : (loadDR1 s v).dr1 = v := rfl
@[simp] theorem loadDR1_dr2 (v : Byte) : (loadDR1 s v).dr2 = s.dr2 := rfl
@[simp] theorem loadDR1_jf (v : Byte) : (loadDR1 s v).jf = s.jf := rfl
@[simp] theorem loadDR1_mem (v : Byte) : (loadDR1 s v).mem = s.mem := rfl
@[simp] theorem loadDR1_stack (v : Byte) : (loadDR1 s v).stack = s.stack := rfl
@[simp] theorem loadDR1_run (v : Byte) : (loadDR1 s v).run = s.run := rfl
@[simp] theorem loadDR1_haltReason (v : Byte) : (loadDR1 s v).haltReason = s.haltReason := rfl
@[simp] theorem loadDR1_fault (v : Byte) : (loadDR1 s v).fault = s.fault := rfl
@[simp] theorem loadDR1_unk (v : Byte) : (loadDR1 s v).unk = s.unk := rfl
@[simp] theorem loadDR1_progLen (v : Byte) : (loadDR1 s v).progLen = s.progLen := rfl
@[simp] theorem loadDR1_loadAttempted (v : Byte) : (loadDR1 s v).loadAttempted = s.loadAttempted := rfl
@[simp] theorem loadDR1_quitSamples (v : Byte) : (loadDR1 s v).quitSamples = s.quitSamples := rfl

/-! loadDR2 -/

@[simp] theorem loadDR2_regs (v : Byte) : (loadDR2 s v).regs = s.regs := rfl
@[simp] theorem loadDR2_pc (v : Byte) : (loadDR2 s v).pc = s.pc := rfl
@[simp] theorem loadDR2_flags (v : Byte) : (loadDR2 s v).flags = s.flags := rfl
@[simp] theorem loadDR2_dr1 (v : Byte) : (loadDR2 s v).dr1 = s.dr1 := rfl
@[simp] theorem loadDR2_dr2 (v : Byte) : (loadDR2 s v).dr2 = v := rfl
@[simp] theorem loadDR2_jf (v : Byte) : (loadDR2 s v).jf = s.jf := rfl
@[simp] theorem loadDR2_mem (v : Byte) : (loadDR2 s v).mem = s.mem := rfl
@[simp] theorem loadDR2_stack (v : Byte) : (loadDR2 s v).stack = s.stack := rfl
@[simp] theorem loadDR2_run (v : Byte) : (loadDR2 s v).run = s.run := rfl
@[simp] theorem loadDR2_haltReason (v : Byte) : (loadDR2 s v).haltReason = s.haltReason := rfl
@[simp] theorem loadDR2_fault (v : Byte) : (loadDR2 s v).fault = s.fault := rfl
@[simp] theorem loadDR2_unk (v : Byte) : (loadDR2 s v).unk = s.unk := rfl
@[simp] theorem loadDR2_progLen (v : Byte) : (loadDR2 s v).progLen = s.progLen := rfl
@[simp] theorem loadDR2_loadAttempted (v : Byte) : (loadDR2 s v).loadAttempted = s.loadAttempted := rfl
@[simp] theorem loadDR2_quitSamples (v : Byte) : (loadDR2 s v).quitSamples = s.quitSamples := rfl

/-! jumpTo -/

@[simp] theorem jumpTo_regs (b a : Byte) : (jumpTo s b a).regs = s.regs := rfl
@[simp] theorem jumpTo_pc (b a : Byte) : (jumpTo s b a).pc = ⟨b, a⟩ := rfl
@[simp] theorem jumpTo_flags (b a : Byte) : (jumpTo s b a).flags = s.flags := rfl
@[simp] theorem jumpTo_dr1 (b a : Byte) : (jumpTo s b a).dr1 = s.dr1 := rfl
@[simp] theorem jumpTo_dr2 (b a : Byte) : (jumpTo s b a).dr2 = s.dr2 := rfl
@[simp] theorem jumpTo_jf (b a : Byte) : (jumpTo s b a).jf = true := rfl
@[simp] theorem jumpTo_mem (b a : Byte) : (jumpTo s b a).mem = s.mem := rfl
@[simp] theorem jumpTo_stack (b a : Byte) : (jumpTo s b a).stack = s.stack := rfl
@[simp] theorem jumpTo_run (b a : Byte) : (jumpTo s b a).run = s.run := rfl
@[simp] theorem jumpTo_haltReason (b a : Byte) : (jumpTo s b a).haltReason = s.haltReason := rfl
@[simp] theorem jumpTo_fault (b a : Byte) : (jumpTo s b a).fault = s.fault := rfl
@[simp] theorem jumpTo_unk (b a : Byte) : (jumpTo s b a).unk = s.unk := rfl
@[simp] theorem jumpTo_progLen (b a : Byte) : (jumpTo s b a).progLen = s.progLen := rfl
@[simp] theorem jumpTo_loadAttempted (b a : Byte) : (jumpTo s b a).loadAttempted = s.loadAttempted := rfl
@[simp] theorem jumpTo_quitSamples (b a : Byte) : (jumpTo s b a).quitSamples = s.quitSamples := rfl

/-! compareBytes -/

@[simp] theorem compareBytes_regs (v w : Byte) : (compareBytes s v w).regs = s.regs := rfl
@[simp] theorem compareBytes_pc (v w : Byte) : (compareBytes s v w).pc = s.pc := rfl
@[simp] theorem compareBytes_flags (v w : Byte) : (compareBytes s v w).flags = { s.flags with equal := bitEqual v w } := rfl
@[simp] theorem compareBytes_dr1 (v w : Byte) : (compareBytes s v w).dr1 = s.dr1 := rfl
@[simp] theorem compareBytes_dr2 (v w : Byte) : (compareBytes s v w).dr2 = s.dr2 := rfl
@[simp] theorem compareBytes_jf (v w : Byte) : (compareBytes s v w).jf = s.jf := rfl
@[simp] theorem compareBytes_mem (v w : Byte) : (compareBytes s v w).mem = s.mem := rfl
@[simp] theorem compareBytes_stack (v w : Byte) : (compareBytes s v w).stack = s.stack := rfl
@[simp] theorem compareBytes_run (v w : Byte) : (compareBytes s v w).run = s.run := rfl
@[simp] theorem compareBytes_haltReason (v w : Byte) : (compareBytes s v w).haltReason = s.haltReason := rfl
@[simp] theorem compareBytes_fault (v w : Byte) : (compareBytes s v w).fault = s.fault := rfl
@[simp] theorem compareBytes_unk (v w : Byte) : (compareBytes s v w).unk = s.unk := rfl
@[simp] theorem compareBytes_progLen (v w : Byte) : (compareBytes s v w).progLen = s.progLen := rfl
@[simp] theorem compareBytes_loadAttempted (v w : Byte) : (compareBytes s v w).loadAttempted = s.loadAttempted := rfl
@[simp] theorem compareBytes_quitSamples (v w : Byte) : (compareBytes s v w).quitSamples = s.quitSamples := rfl

/-! haltWith -/

@[simp] theorem haltWith_regs (why : HaltReason) : (haltWith s why).regs = s.regs := rfl
@[simp] theorem haltWith_pc (why : HaltReason) : (haltWith s why).pc = s.pc := rfl
@[simp] theorem haltWith_flags (why : HaltReason) : (haltWith s why).flags = s.flags := rfl
@[simp] theorem haltWith_dr1 (why : HaltReason) : (haltWith s why).dr1 = s.dr1 := rfl
@[simp] theorem haltWith_dr2 (why : HaltReason) : (haltWith s why).dr2 = s.dr2 := rfl
@[simp] theorem haltWith_jf (why : HaltReason) : (haltWith s why).jf = s.jf := rfl
@[simp] theorem haltWith_mem (why : HaltReason) : (haltWith s why).mem = s.mem := rfl
@[simp] theorem haltWith_stack (why : HaltReason) : (haltWith s why).stack = s.stack := rfl
@[simp] theorem haltWith_run (why : HaltReason) : (haltWith s why).run = .halted := rfl
@[simp] theorem haltWith_haltReason (why : HaltReason) : (haltWith s why).haltReason = why := rfl
@[simp] theorem haltWith_fault (why : HaltReason) : (haltWith s why).fault = s.fault := rfl
@[simp] theorem haltWith_unk (why : HaltReason) : (haltWith s why).unk = s.unk := rfl
@[simp] theorem haltWith_progLen (why : HaltReason) : (haltWith s why).progLen = s.progLen := rfl
@[simp] theorem haltWith_loadAttempted (why : HaltReason) : (haltWith s why).loadAttempted = s.loadAttempted := rfl
@[simp] theorem haltWith_quitSamples (why : HaltReason) : (haltWith s why).quitSamples = s.quitSamples := rfl

/-! raiseInvalidRegister -/

@[simp] theorem raiseInvalidRegister_regs (c : Byte) : (raiseInvalidRegister s c).regs = s.regs := rfl
@[simp] theorem raiseInvalidRegister_pc (c : Byte) : (raiseInvalidRegister s c).pc = s.pc := rfl
@[simp] theorem raiseInvalidRegister_flags (c : Byte) : (raiseInvalidRegister s c).flags = s.flags := rfl
@[simp] theorem raiseInvalidRegister_dr1 (c : Byte) : (raiseInvalidRegister s c).dr1 = s.dr1 := rfl
@[simp] theorem raiseInvalidRegister_dr2 (c : Byte) : (raiseInvalidRegister s c).dr2 = s.dr2 := rfl
@[simp] theorem raiseInvalidRegister_jf (c : Byte) : (raiseInvalidRegister s c).jf = s.jf := rfl
@[simp] theorem raiseInvalidRegister_mem (c : Byte) : (raiseInvalidRegister s c).mem = s.mem := rfl
@[simp] theorem raiseInvalidRegister_stack (c : Byte) : (raiseInvalidRegister s c).stack = s.stack := rfl
@[simp] theorem raiseInvalidRegister_run (c : Byte) : (raiseInvalidRegister s c).run = .halted := rfl
@[simp] theorem raiseInvalidRegister_haltReason (c : Byte) : (raiseInvalidRegister s c).haltReason = .fault := rfl
@[simp] theorem raiseInvalidRegister_fault (c : Byte) : (raiseInvalidRegister s c).fault = invalidRegisterRecord c s.pc := rfl
@[simp] theorem raiseInvalidRegister_unk (c : Byte) : (raiseInvalidRegister s c).unk = s.unk := rfl
@[simp] theorem raiseInvalidRegister_progLen (c : Byte) : (raiseInvalidRegister s c).progLen = s.progLen := rfl
@[simp] theorem raiseInvalidRegister_loadAttempted (c : Byte) : (raiseInvalidRegister s c).loadAttempted = s.loadAttempted := rfl
@[simp] theorem raiseInvalidRegister_quitSamples (c : Byte) : (raiseInvalidRegister s c).quitSamples = s.quitSamples := rfl

/-! beginCycle -/

@[simp] theorem beginCycle_regs : (beginCycle s).regs = s.regs := rfl
@[simp] theorem beginCycle_pc : (beginCycle s).pc = fetchPc s.pc := rfl
@[simp] theorem beginCycle_flags : (beginCycle s).flags = s.flags := rfl
@[simp] theorem beginCycle_dr1 : (beginCycle s).dr1 = s.dr1 := rfl
@[simp] theorem beginCycle_dr2 : (beginCycle s).dr2 = s.dr2 := rfl
@[simp] theorem beginCycle_jf : (beginCycle s).jf = false := rfl
@[simp] theorem beginCycle_mem : (beginCycle s).mem = s.mem := rfl
@[simp] theorem beginCycle_stack : (beginCycle s).stack = s.stack := rfl
@[simp] theorem beginCycle_run : (beginCycle s).run = s.run := rfl
@[simp] theorem beginCycle_haltReason : (beginCycle s).haltReason = s.haltReason := rfl
@[simp] theorem beginCycle_fault : (beginCycle s).fault = s.fault := rfl
@[simp] theorem beginCycle_unk : (beginCycle s).unk = s.unk := rfl
@[simp] theorem beginCycle_progLen : (beginCycle s).progLen = s.progLen := rfl
@[simp] theorem beginCycle_loadAttempted : (beginCycle s).loadAttempted = s.loadAttempted := rfl
@[simp] theorem beginCycle_quitSamples : (beginCycle s).quitSamples = s.quitSamples := rfl

/-! unknownOpcode -/

@[simp] theorem unknownOpcode_regs (x : Byte) : (unknownOpcode s x).regs = s.regs := rfl
@[simp] theorem unknownOpcode_pc (x : Byte) : (unknownOpcode s x).pc = s.pc := rfl
@[simp] theorem unknownOpcode_flags (x : Byte) : (unknownOpcode s x).flags = s.flags := rfl
@[simp] theorem unknownOpcode_dr1 (x : Byte) : (unknownOpcode s x).dr1 = x := rfl
@[simp] theorem unknownOpcode_dr2 (x : Byte) : (unknownOpcode s x).dr2 = s.dr2 := rfl
@[simp] theorem unknownOpcode_jf (x : Byte) : (unknownOpcode s x).jf = s.jf := rfl
@[simp] theorem unknownOpcode_mem (x : Byte) : (unknownOpcode s x).mem = s.mem := rfl
@[simp] theorem unknownOpcode_stack (x : Byte) : (unknownOpcode s x).stack = s.stack := rfl
@[simp] theorem unknownOpcode_run (x : Byte) : (unknownOpcode s x).run = s.run := rfl
@[simp] theorem unknownOpcode_haltReason (x : Byte) : (unknownOpcode s x).haltReason = s.haltReason := rfl
@[simp] theorem unknownOpcode_fault (x : Byte) : (unknownOpcode s x).fault = s.fault := rfl
@[simp] theorem unknownOpcode_unk (x : Byte) : (unknownOpcode s x).unk = s.unk + 1 := rfl
@[simp] theorem unknownOpcode_progLen (x : Byte) : (unknownOpcode s x).progLen = s.progLen := rfl
@[simp] theorem unknownOpcode_loadAttempted (x : Byte) : (unknownOpcode s x).loadAttempted = s.loadAttempted := rfl
@[simp] theorem unknownOpcode_quitSamples (x : Byte) : (unknownOpcode s x).quitSamples = s.quitSamples := rfl

/-! pushByte -/

@[simp] theorem pushByte_regs (v : Byte) : (pushByte s v).regs = s.regs.set .S (readReg s .S + 1) := rfl
@[simp] theorem pushByte_pc (v : Byte) : (pushByte s v).pc = s.pc := rfl
@[simp] theorem pushByte_flags (v : Byte) : (pushByte s v).flags = s.flags := rfl
@[simp] theorem pushByte_dr1 (v : Byte) : (pushByte s v).dr1 = s.dr1 := rfl
@[simp] theorem pushByte_dr2 (v : Byte) : (pushByte s v).dr2 = s.dr2 := rfl
@[simp] theorem pushByte_jf (v : Byte) : (pushByte s v).jf = s.jf := rfl
@[simp] theorem pushByte_mem (v : Byte) : (pushByte s v).mem = s.mem := rfl
@[simp] theorem pushByte_stack (v : Byte) : (pushByte s v).stack = Memory.write s.stack (readReg s .S).toNat v := rfl
@[simp] theorem pushByte_run (v : Byte) : (pushByte s v).run = s.run := rfl
@[simp] theorem pushByte_haltReason (v : Byte) : (pushByte s v).haltReason = s.haltReason := rfl
@[simp] theorem pushByte_fault (v : Byte) : (pushByte s v).fault = s.fault := rfl
@[simp] theorem pushByte_unk (v : Byte) : (pushByte s v).unk = s.unk := rfl
@[simp] theorem pushByte_progLen (v : Byte) : (pushByte s v).progLen = s.progLen := rfl
@[simp] theorem pushByte_loadAttempted (v : Byte) : (pushByte s v).loadAttempted = s.loadAttempted := rfl
@[simp] theorem pushByte_quitSamples (v : Byte) : (pushByte s v).quitSamples = s.quitSamples := rfl

/-! changePointed -/

@[simp] theorem changePointed_regs (f : Byte → Byte) : (changePointed s f).regs = s.regs := rfl
@[simp] theorem changePointed_pc (f : Byte → Byte) : (changePointed s f).pc = s.pc := rfl
@[simp] theorem changePointed_flags (f : Byte → Byte) : (changePointed s f).flags = s.flags := rfl
@[simp] theorem changePointed_dr1 (f : Byte → Byte) : (changePointed s f).dr1 = s.dr1 := rfl
@[simp] theorem changePointed_dr2 (f : Byte → Byte) : (changePointed s f).dr2 = s.dr2 := rfl
@[simp] theorem changePointed_jf (f : Byte → Byte) : (changePointed s f).jf = s.jf := rfl
@[simp] theorem changePointed_mem (f : Byte → Byte) : (changePointed s f).mem = Memory.write s.mem (cellKey (readReg s .BI) (readReg s .P)) (f (memRead s (readReg s .BI) (readReg s .P))) := rfl
@[simp] theorem changePointed_stack (f : Byte → Byte) : (changePointed s f).stack = s.stack := rfl
@[simp] theorem changePointed_run (f : Byte → Byte) : (changePointed s f).run = s.run := rfl
@[simp] theorem changePointed_haltReason (f : Byte → Byte) : (changePointed s f).haltReason = s.haltReason := rfl
@[simp] theorem changePointed_fault (f : Byte → Byte) : (changePointed s f).fault = s.fault := rfl
@[simp] theorem changePointed_unk (f : Byte → Byte) : (changePointed s f).unk = s.unk := rfl
@[simp] theorem changePointed_progLen (f : Byte → Byte) : (changePointed s f).progLen = s.progLen := rfl
@[simp] theorem changePointed_loadAttempted (f : Byte → Byte) : (changePointed s f).loadAttempted = s.loadAttempted := rfl
@[simp] theorem changePointed_quitSamples (f : Byte → Byte) : (changePointed s f).quitSamples = s.quitSamples := rfl

/-! presentQuit -/

@[simp] theorem presentQuit_regs (bits : List Bool) : (presentQuit bits s).regs = s.regs := rfl
@[simp] theorem presentQuit_pc (bits : List Bool) : (presentQuit bits s).pc = s.pc := rfl
@[simp] theorem presentQuit_flags (bits : List Bool) : (presentQuit bits s).flags = s.flags := rfl
@[simp] theorem presentQuit_dr1 (bits : List Bool) : (presentQuit bits s).dr1 = s.dr1 := rfl
@[simp] theorem presentQuit_dr2 (bits : List Bool) : (presentQuit bits s).dr2 = s.dr2 := rfl
@[simp] theorem presentQuit_jf (bits : List Bool) : (presentQuit bits s).jf = s.jf := rfl
@[simp] theorem presentQuit_mem (bits : List Bool) : (presentQuit bits s).mem = s.mem := rfl
@[simp] theorem presentQuit_stack (bits : List Bool) : (presentQuit bits s).stack = s.stack := rfl
@[simp] theorem presentQuit_run (bits : List Bool) : (presentQuit bits s).run = s.run := rfl
@[simp] theorem presentQuit_haltReason (bits : List Bool) : (presentQuit bits s).haltReason = s.haltReason := rfl
@[simp] theorem presentQuit_fault (bits : List Bool) : (presentQuit bits s).fault = s.fault := rfl
@[simp] theorem presentQuit_unk (bits : List Bool) : (presentQuit bits s).unk = s.unk := rfl
@[simp] theorem presentQuit_progLen (bits : List Bool) : (presentQuit bits s).progLen = s.progLen := rfl
@[simp] theorem presentQuit_loadAttempted (bits : List Bool) : (presentQuit bits s).loadAttempted = s.loadAttempted := rfl
@[simp] theorem presentQuit_quitSamples (bits : List Bool) : (presentQuit bits s).quitSamples = bits := rfl

/-! jumpIf, advance, endCycle -/

@[simp] theorem jumpIf_regs (c : Bool) (b a : Byte) : (jumpIf c s b a).regs = s.regs := by cases c <;> rfl
@[simp] theorem jumpIf_flags (c : Bool) (b a : Byte) : (jumpIf c s b a).flags = s.flags := by cases c <;> rfl
@[simp] theorem jumpIf_dr1 (c : Bool) (b a : Byte) : (jumpIf c s b a).dr1 = s.dr1 := by cases c <;> rfl
@[simp] theorem jumpIf_dr2 (c : Bool) (b a : Byte) : (jumpIf c s b a).dr2 = s.dr2 := by cases c <;> rfl
@[simp] theorem jumpIf_mem (c : Bool) (b a : Byte) : (jumpIf c s b a).mem = s.mem := by cases c <;> rfl
@[simp] theorem jumpIf_stack (c : Bool) (b a : Byte) : (jumpIf c s b a).stack = s.stack := by cases c <;> rfl
@[simp] theorem jumpIf_run (c : Bool) (b a : Byte) : (jumpIf c s b a).run = s.run := by cases c <;> rfl
@[simp] theorem jumpIf_haltReason (c : Bool) (b a : Byte) : (jumpIf c s b a).haltReason = s.haltReason := by cases c <;> rfl
@[simp] theorem jumpIf_fault (c : Bool) (b a : Byte) : (jumpIf c s b a).fault = s.fault := by cases c <;> rfl
@[simp] theorem jumpIf_unk (c : Bool) (b a : Byte) : (jumpIf c s b a).unk = s.unk := by cases c <;> rfl
@[simp] theorem jumpIf_progLen (c : Bool) (b a : Byte) : (jumpIf c s b a).progLen = s.progLen := by cases c <;> rfl
@[simp] theorem jumpIf_loadAttempted (c : Bool) (b a : Byte) : (jumpIf c s b a).loadAttempted = s.loadAttempted := by cases c <;> rfl
@[simp] theorem jumpIf_quitSamples (c : Bool) (b a : Byte) : (jumpIf c s b a).quitSamples = s.quitSamples := by cases c <;> rfl
@[simp] theorem jumpIf_pc (c : Bool) (b a : Byte) : (jumpIf c s b a).pc = bif c then ⟨b, a⟩ else s.pc := by cases c <;> rfl
@[simp] theorem jumpIf_jf (c : Bool) (b a : Byte) : (jumpIf c s b a).jf = (c || s.jf) := by cases c <;> rfl
@[simp] theorem jumpIf_true (b a : Byte) : jumpIf true s b a = jumpTo s b a := rfl
@[simp] theorem jumpIf_false (b a : Byte) : jumpIf false s b a = s := rfl
@[simp] theorem advance_regs : (advance s).regs = s.regs := by unfold advance; split <;> rfl
@[simp] theorem advance_flags : (advance s).flags = s.flags := by unfold advance; split <;> rfl
@[simp] theorem advance_dr1 : (advance s).dr1 = s.dr1 := by unfold advance; split <;> rfl
@[simp] theorem advance_dr2 : (advance s).dr2 = s.dr2 := by unfold advance; split <;> rfl
@[simp] theorem advance_jf : (advance s).jf = s.jf := by unfold advance; split <;> rfl
@[simp] theorem advance_mem : (advance s).mem = s.mem := by unfold advance; split <;> rfl
@[simp] theorem advance_stack : (advance s).stack = s.stack := by unfold advance; split <;> rfl
@[simp] theorem advance_run : (advance s).run = s.run := by unfold advance; split <;> rfl
@[simp] theorem advance_haltReason : (advance s).haltReason = s.haltReason := by unfold advance; split <;> rfl
@[simp] theorem advance_fault : (advance s).fault = s.fault := by unfold advance; split <;> rfl
@[simp] theorem advance_unk : (advance s).unk = s.unk := by unfold advance; split <;> rfl
@[simp] theorem advance_progLen : (advance s).progLen = s.progLen := by unfold advance; split <;> rfl
@[simp] theorem advance_loadAttempted : (advance s).loadAttempted = s.loadAttempted := by unfold advance; split <;> rfl
@[simp] theorem advance_quitSamples : (advance s).quitSamples = s.quitSamples := by unfold advance; split <;> rfl
@[simp] theorem advance_pc : (advance s).pc = if s.jf then s.pc else advancePc s.pc := by unfold advance; split <;> rfl
@[simp] theorem yieldPoint_regs : (yieldPoint s).regs = s.regs := by unfold yieldPoint; split <;> rfl
@[simp] theorem yieldPoint_pc : (yieldPoint s).pc = s.pc := by unfold yieldPoint; split <;> rfl
@[simp] theorem yieldPoint_flags : (yieldPoint s).flags = s.flags := by unfold yieldPoint; split <;> rfl
@[simp] theorem yieldPoint_dr1 : (yieldPoint s).dr1 = s.dr1 := by unfold yieldPoint; split <;> rfl
@[simp] theorem yieldPoint_dr2 : (yieldPoint s).dr2 = s.dr2 := by unfold yieldPoint; split <;> rfl
@[simp] theorem yieldPoint_jf : (yieldPoint s).jf = s.jf := by unfold yieldPoint; split <;> rfl
@[simp] theorem yieldPoint_mem : (yieldPoint s).mem = s.mem := by unfold yieldPoint; split <;> rfl
@[simp] theorem yieldPoint_stack : (yieldPoint s).stack = s.stack := by unfold yieldPoint; split <;> rfl
@[simp] theorem yieldPoint_fault : (yieldPoint s).fault = s.fault := by unfold yieldPoint; split <;> rfl
@[simp] theorem yieldPoint_unk : (yieldPoint s).unk = s.unk := by unfold yieldPoint; split <;> rfl
@[simp] theorem yieldPoint_progLen : (yieldPoint s).progLen = s.progLen := by unfold yieldPoint; split <;> rfl
@[simp] theorem yieldPoint_loadAttempted : (yieldPoint s).loadAttempted = s.loadAttempted := by unfold yieldPoint; split <;> rfl

@[simp] theorem popByte_fst : (popByte s).1 = stackRead s (readReg s .S - 1) := rfl
@[simp] theorem popByte_snd : (popByte s).2 = writeReg s .S (readReg s .S - 1) := rfl

end

end Sys2Proof.Machine
end

