-- ==== Sys2Proof/Laws/Cycle.lean ====
section
/-! SUPPORT. Everything a step can do, said once. -/
namespace Sys2Proof.Machine

theorem stepWith_halted (m : OpcodeMap) (s : State) (h : s.run = .halted) : stepWith m s = .next s := by
  simp [stepWith, h]

theorem stepWith_atEnd (m : OpcodeMap) (s : State) (h : s.run = .running) (he : s.progLen ≤ s.pc.comp) :
    stepWith m s = .next (haltWith s .endOfProgram) := by
  simp [stepWith, h, atEnd, he]

theorem stepWith_running (m : OpcodeMap) (s : State) (h : s.run = .running) (he : s.pc.comp < s.progLen) :
    stepWith m s = finish (decodeAndRun m (beginCycle s)) := by
  simp [stepWith, h, atEnd, Nat.not_le.mpr he]

/-- The three cases of a step. -/
theorem stepWith_cases (m : OpcodeMap) (s : State) :
    (s.run = .halted ∧ stepWith m s = .next s) ∨
    (s.run = .running ∧ s.progLen ≤ s.pc.comp ∧ stepWith m s = .next (haltWith s .endOfProgram)) ∨
    (s.run = .running ∧ s.pc.comp < s.progLen ∧ stepWith m s = finish (decodeAndRun m (beginCycle s))) := by
  cases h : s.run with
  | halted => exact .inl ⟨rfl, stepWith_halted m s h⟩
  | running =>
    rcases Nat.lt_or_ge s.pc.comp s.progLen with he | he
    · exact .inr (.inr ⟨rfl, he, stepWith_running m s h he⟩)
    · exact .inr (.inl ⟨rfl, he, stepWith_atEnd m s h he⟩)

/-- The two cases of decoding: a known opcode's instruction runs, an unknown opcode is counted. -/
theorem decodeAndRun_cases (m : OpcodeMap) (s : State) :
    (∃ i, decodePair m (opcodeAt s) (operandAt s) = some i ∧ decodeAndRun m s = exec i s) ∨
    (decodePair m (opcodeAt s) (operandAt s) = none ∧
      decodeAndRun m s = .next (unknownOpcode s (operandAt s))) := by
  unfold decodeAndRun
  cases h : decodePair m (opcodeAt s) (operandAt s) with
  | some i => exact .inl ⟨i, rfl, rfl⟩
  | none => exact .inr ⟨rfl, rfl⟩

/-- The end of a cycle. -/
theorem endCycle_cases (t : State) :
    (t.run = .halted ∧ endCycle t = t) ∨ (t.run = .running ∧ endCycle t = yieldPoint (advance t)) := by
  unfold endCycle
  cases h : t.run
  · exact .inr ⟨rfl, rfl⟩
  · exact .inl ⟨rfl, rfl⟩

/-- The yield point: a set bit halts with reason QUIT, any other leaves the machine as it is. -/
theorem yieldPoint_cases (s : State) :
    (s.quitSamples = [] ∧ yieldPoint s = s) ∨
    (∃ rest, s.quitSamples = true :: rest ∧ yieldPoint s = haltWith { s with quitSamples := rest } .quit) ∨
    (∃ rest, s.quitSamples = false :: rest ∧ yieldPoint s = { s with quitSamples := rest }) := by
  unfold yieldPoint
  cases h : s.quitSamples with
  | nil => exact .inl ⟨rfl, rfl⟩
  | cons q rest => cases q
                   · exact .inr (.inr ⟨rest, rfl, rfl⟩)
                   · exact .inr (.inl ⟨rest, rfl, rfl⟩)

/-- The fetch roll-over leaves an address of at most 254 (30_encoding.md R92). -/
theorem fetchPc_addr_le (pc : PC) : (fetchPc pc).addr.toNat ≤ 254 := by
  unfold fetchPc nextBank
  split
  · exact Nat.zero_le _
  · have := pc.addr.isLt; omega

end Sys2Proof.Machine
end

