-- ==== Sys2Proof/Laws/Decode.lean ====
section
/-! SUPPORT. The decoder's small laws. -/
namespace Sys2Proof

theorem Opcode.mem_all (o : Opcode) : o ∈ Opcode.all := by cases o <;> decide

/-- The default numbering is injective, as R101 asks. -/
theorem OpcodeMap.default_wf : OpcodeMap.default.wf := by
  intro o o' e
  have h : ∀ o : Opcode, Opcode.all[(OpcodeMap.default o).toNat]? = some o := fun o => by cases o <;> rfl
  have h' := h o'
  rw [← e, h o] at h'
  exact Option.some.inj h'

@[simp] theorem Instr.opcode_ofOpcode (o : Opcode) (x : Byte) : (Instr.ofOpcode o x).opcode = o := by cases o <;> rfl

@[simp] theorem Instr.operandByte_ofOpcode (o : Opcode) (x : Byte) : (Instr.ofOpcode o x).operandByte = x := by
  cases o <;> rfl

@[simp] theorem Instr.ofOpcode_opcode (i : Instr) : Instr.ofOpcode i.opcode i.operandByte = i := by cases i <;> rfl

/-- The operation found has the opcode byte looked for. -/
theorem decodeOpcode_some {m : OpcodeMap} {op : Byte} {o : Opcode} (h : decodeOpcode m op = some o) : m o = op := by
  simpa using List.find?_some h

/-- No operation is found exactly when no operation has the opcode byte. -/
theorem decodeOpcode_none {m : OpcodeMap} {op : Byte} : decodeOpcode m op = none ↔ ∀ o, m o ≠ op := by
  unfold decodeOpcode
  rw [List.find?_eq_none]
  simp [Opcode.mem_all]

/-- Under an injective numbering each operation's byte selects it. -/
theorem decodeOpcode_self {m : OpcodeMap} (hm : m.wf) (o : Opcode) : decodeOpcode m (m o) = some o := by
  cases h : decodeOpcode m (m o) with
  | none => exact absurd rfl (decodeOpcode_none.mp h o)
  | some o' => rw [hm _ _ (decodeOpcode_some h)]

end Sys2Proof
end

