-- ==== Sys2Proof/Laws/Memory.lean ====
section
/-! SUPPORT. The laws of the sparse memory: read after write, and that every operation keeps the canonical form. -/
namespace Sys2Proof.Machine

/-! ### Reading -/

theorem Memory.read_erase (m : Memory) (a b : Nat) :
    Memory.read (Memory.erase m a) b = if b = a then blankByte else Memory.read m b := by
  induction m with
  | nil => simp [Memory.erase, Memory.read]
  | cons c m ih =>
    obtain ⟨k, v⟩ := c
    by_cases hk : k = a
    · subst hk
      have : Memory.erase ((k, v) :: m) k = Memory.erase m k := by simp [Memory.erase]
      rw [this, ih]
      by_cases hb : b = k
      · simp [hb]
      · have : k ≠ b := fun h => hb h.symm
        simp [hb, Memory.read, this]
    · have : Memory.erase ((k, v) :: m) a = (k, v) :: Memory.erase m a := by simp [Memory.erase, hk]
      rw [this]
      simp only [Memory.read, ih]
      by_cases hb : k = b
      · subst hb; simp [hk]
      · simp [hb]

theorem Memory.read_of_absent (m : Memory) (a : Nat) (h : ∀ c ∈ m, c.1 ≠ a) : Memory.read m a = blankByte := by
  induction m with
  | nil => rfl
  | cons c m ih =>
    obtain ⟨k, v⟩ := c
    have hk : k ≠ a := h (k, v) (by simp)
    simp only [Memory.read, hk, if_false]
    exact ih (fun c hc => h c (by simp [hc]))

theorem Memory.read_insert (m : Memory) (a b : Nat) (v : Byte) (h : ∀ c ∈ m, c.1 ≠ a) :
    Memory.read (Memory.insert m a v) b = if b = a then v else Memory.read m b := by
  induction m with
  | nil =>
    by_cases hb : b = a
    · simp [Memory.insert, Memory.read, hb]
    · have : a ≠ b := fun h => hb h.symm
      simp [Memory.insert, Memory.read, hb, this]
  | cons c m ih =>
    obtain ⟨k, w⟩ := c
    have hk : k ≠ a := h (k, w) (by simp)
    have ih := ih (fun c hc => h c (by simp [hc]))
    unfold Memory.insert
    split
    · by_cases hb : b = a
      · simp [Memory.read, hb]
      · have : a ≠ b := fun h => hb h.symm
        simp [Memory.read, hb, this]
    · simp only [Memory.read, ih]
      by_cases hb : k = b
      · subst hb; simp [hk]
      · simp [hb]

theorem Memory.absent_erase (m : Memory) (a : Nat) : ∀ c ∈ Memory.erase m a, c.1 ≠ a := by
  intro c hc
  simpa using (List.mem_filter.mp hc).2

/-- Read after write, for any memory, canonical or not. -/
theorem Memory.read_write (m : Memory) (a b : Nat) (v : Byte) :
    Memory.read (Memory.write m a v) b = if b = a then v else Memory.read m b := by
  unfold Memory.write
  split
  · next h => rw [Memory.read_erase, h]
  · rw [Memory.read_insert _ _ _ _ (Memory.absent_erase m a), Memory.read_erase]
    split <;> rfl

/-! ### The canonical form -/

theorem Memory.wf_erase {n : Nat} {m : Memory} (a : Nat) (h : Memory.wf n m) : Memory.wf n (Memory.erase m a) :=
  ⟨h.1.filter _, fun c hc => h.2 c (List.mem_filter.mp hc).1⟩

theorem Memory.mem_insert {m : Memory} {a : Nat} {v : Byte} {c : Host.Cell} (h : c ∈ Memory.insert m a v) :
    c = (a, v) ∨ c ∈ m := by
  induction m with
  | nil => left; simpa [Memory.insert] using h
  | cons d m ih =>
    unfold Memory.insert at h
    split at h
    · simpa using h
    · rcases List.mem_cons.mp h with rfl | h
      · simp
      · rcases ih h with h | h
        · exact .inl h
        · exact .inr (List.mem_cons_of_mem _ h)

theorem Memory.wf_insert {n : Nat} {m : Memory} {a : Nat} {v : Byte} (h : Memory.wf n m) (ha : a < n)
    (hv : v ≠ blankByte) (habs : ∀ c ∈ m, c.1 ≠ a) : Memory.wf n (Memory.insert m a v) := by
  refine ⟨?_, fun c hc => ?_⟩
  · obtain ⟨hp, -⟩ := h
    induction m with
    | nil => simp [Memory.insert]
    | cons d m ih =>
      obtain ⟨k, w⟩ := d
      have hk : k ≠ a := habs (k, w) (by simp)
      obtain ⟨hd, hp⟩ := List.pairwise_cons.mp hp
      unfold Memory.insert
      split
      · next hlt =>
        refine List.pairwise_cons.mpr ⟨fun c hc => ?_, List.pairwise_cons.mpr ⟨hd, hp⟩⟩
        rcases List.mem_cons.mp hc with rfl | hc
        · exact hlt
        · exact Nat.lt_trans hlt (hd c hc)
      · next hlt =>
        refine List.pairwise_cons.mpr ⟨fun c hc => ?_, ih (fun c hc => habs c (by simp [hc])) hp⟩
        rcases Memory.mem_insert hc with rfl | hc
        · show k < a
          omega
        · exact hd c hc
  · rcases Memory.mem_insert hc with rfl | hc
    · exact ⟨ha, hv⟩
    · exact h.2 c hc

/-- Every write below the size keeps the canonical form. -/
theorem Memory.wf_write {n : Nat} {m : Memory} {a : Nat} (v : Byte) (h : Memory.wf n m) (ha : a < n) :
    Memory.wf n (Memory.write m a v) := by
  unfold Memory.write
  split
  · exact Memory.wf_erase a h
  · next hv => exact Memory.wf_insert (Memory.wf_erase a h) ha hv (Memory.absent_erase m a)

theorem Memory.wf_nil (n : Nat) : Memory.wf n [] := ⟨List.Pairwise.nil, by simp⟩

/-! ### Locations -/

theorem cellKey_lt (b a : Byte) : cellKey b a < Config.memSize := by
  have := b.isLt; have := a.isLt
  unfold cellKey Config.memSize Config.nBanks Config.bankSize
  omega

theorem cellKey_inj {b a b' a' : Byte} : cellKey b a = cellKey b' a' ↔ b = b' ∧ a = a' := by
  have := b.isLt; have := a.isLt; have := b'.isLt; have := a'.isLt
  constructor
  · intro h
    unfold cellKey at h
    exact ⟨BitVec.eq_of_toNat_eq (by omega), BitVec.eq_of_toNat_eq (by omega)⟩
  · rintro ⟨rfl, rfl⟩; rfl

/-- A key below 65,536 is the key of the location (key div 256, key mod 256). -/
theorem cellKey_ofNat (k : Nat) (h : k < Config.memSize) :
    cellKey (BitVec.ofNat 8 (k / 256)) (BitVec.ofNat 8 (k % 256)) = k := by
  unfold Config.memSize Config.nBanks Config.bankSize at h
  simp only [cellKey, BitVec.toNat_ofNat]
  omega

@[simp] theorem imageWf_iff (image : List Byte) : imageWf image = true ↔ image.length ≤ 65536 :=
  decide_eq_true_iff

@[simp] theorem imageWf_false_iff (image : List Byte) : imageWf image = false ↔ 65536 < image.length :=
  decide_eq_false_iff_not.trans Nat.not_le

@[simp] theorem justReset_hostReset (s : State) : justReset (hostReset s) = true := by simp [justReset, hostReset]

theorem justReset_running {s : State} (h : s.run = .running) : justReset s = false := by
  simp only [justReset, decide_eq_false_iff_not]
  intro e
  rw [e] at h
  cases h

/-- Once a load was performed, no other is accepted until reset. -/
theorem justReset_loadAttempted {s : State} (h : s.loadAttempted = true) : justReset s = false := by
  simp only [justReset, decide_eq_false_iff_not]
  intro e
  rw [e] at h
  cases h

theorem writeImage_wf {m : Memory} {a : Nat} {image : List Byte} (h : Memory.wf Config.memSize m) :
    Memory.wf Config.memSize (writeImage m a image) := by
  induction image generalizing m a with
  | nil => exact h
  | cons v image ih => exact ih (Memory.wf_write v h (cellKey_lt _ _))

/-! ### Reading a state after an update that leaves the memory alone -/

theorem memRead_congr {s t : State} (h : t.mem = s.mem) (b a : Byte) : memRead t b a = memRead s b a := by
  unfold memRead; rw [h]

theorem stackRead_congr {s t : State} (h : t.stack = s.stack) (o : Byte) : stackRead t o = stackRead s o := by
  unfold stackRead; rw [h]

end Sys2Proof.Machine
end

