-- ==== Sys2Proof/Laws/Host.lean ====
section
/-! SUPPORT. What the host's operations do: the bytes of a written image, the cases of `load`, and that the instruction
`withFetchWord` places is the one the next step fetches. -/
namespace Sys2Proof.Machine

/-- Every byte after an image is written: the image's byte inside it, the old byte outside. -/
theorem writeImage_read (m : Memory) (a : Nat) (image : List Byte) (h : a + image.length ≤ 65536) (k : Nat) :
    Memory.read (writeImage m a image) k =
      if h : a ≤ k ∧ k < a + image.length then image[k - a]'(by omega) else Memory.read m k := by
  induction image generalizing m a with
  | nil => rw [dif_neg (by simp)]; rfl
  | cons v l ih =>
    simp only [List.length_cons] at h
    simp only [writeImage]
    rw [ih _ _ (by omega), Memory.read_write,
      cellKey_ofNat a (by unfold Config.memSize Config.nBanks Config.bankSize; omega)]
    by_cases hk : k = a
    · subst hk; rw [dif_neg (by omega)]; simp
    · by_cases h2 : a ≤ k ∧ k < a + (l.length + 1)
      · rw [dif_pos (show a + 1 ≤ k ∧ k < a + 1 + l.length by omega), dif_pos (by simpa using h2)]
        have : k - a = (k - (a + 1)) + 1 := by omega
        simp [this]
      · rw [dif_neg (show ¬ (a + 1 ≤ k ∧ k < a + 1 + l.length) by omega), dif_neg (by simpa using h2), if_neg hk]

/-- The three things `load` can answer. -/
theorem load_cases (src : ImageSource) (s : State) :
    (∃ image, src = .complete image ∧ justReset s = true ∧ image.length ≤ 65536 ∧
      load src s = .next { s with mem := writeImage s.mem 0 image, progLen := image.length, pc := ⟨0, 0⟩,
                                  run := .running, loadAttempted := true }) ∨
    (∃ part, src = .ioFailure part ∧ justReset s = true ∧ part.length ≤ 65536 ∧
      load src s = .next { s with mem := writeImage s.mem 0 part, loadAttempted := true }) ∨
    (∃ r, load src s = .refused r) := by
  cases hj : justReset s with
  | false => exact .inr (.inr ⟨.loadNotAfterReset, by simp [load, hj]⟩)
  | true =>
    cases src with
    | complete image =>
      cases hi : imageWf image with
      | true => exact .inl ⟨image, rfl, rfl, (imageWf_iff _).mp hi, by simp only [load, hj, hi, cond_true]⟩
      | false => exact .inr (.inr ⟨.imageTooLong, by simp only [load, hj, hi, cond_true, cond_false]⟩)
    | ioFailure part =>
      cases hi : imageWf part with
      | true => exact .inr (.inl ⟨part, rfl, rfl, (imageWf_iff _).mp hi, by simp only [load, hj, hi, cond_true]⟩)
      | false => exact .inr (.inr ⟨.imageTooLong, by simp only [load, hj, hi, cond_true, cond_false]⟩)

/-- `readyToFetch` leaves a state whose next step fetches. -/
theorem readyToFetch_fetches (s : State) :
    (readyToFetch s).run = .running ∧ (readyToFetch s).pc.comp < (readyToFetch s).progLen := by
  refine ⟨rfl, ?_⟩
  show s.pc.comp < if s.pc.comp < s.progLen then s.progLen else min (s.pc.comp + 2) Config.memSize
  have : s.pc.comp < Config.memSize := cellKey_lt s.pc.bank s.pc.addr
  split
  · assumption
  · rw [Nat.lt_min]; omega

/-- The two bytes placed are the two bytes fetched. -/
theorem placeBytes_fetched (s : State) (op opnd : Byte) (rest : List Byte) :
    opcodeAt (beginCycle (placeBytes s (op :: opnd :: rest))) = op ∧
    operandAt (beginCycle (placeBytes s (op :: opnd :: rest))) = opnd := by
  have hne : ∀ a : Byte, a ≠ a + 1 := by decide
  let pc := fetchPc s.pc
  let written := Memory.write (Memory.write s.mem (cellKey pc.bank pc.addr) op) (cellKey pc.bank (pc.addr + 1)) opnd
  constructor
  · show Memory.read written (cellKey pc.bank pc.addr) = op
    rw [Memory.read_write, if_neg (fun h => hne _ (cellKey_inj.mp h).2), Memory.read_write, if_pos rfl]
  · show Memory.read written (cellKey pc.bank (pc.addr + 1)) = opnd
    rw [Memory.read_write, if_pos rfl]

end Sys2Proof.Machine
end

