-- ==== Sys2Proof/Laws/Operands.lean ====
section
/-! SUPPORT. Registers, register codes and the two operand forms: what each can do, said once. -/
namespace Sys2Proof.Machine

@[simp] theorem Regs.get_set (f : Regs) (r q : Reg) (v : Byte) :
    (f.set r v).get q = if q = r then v else f.get q := by
  cases r <;> cases q <;> rfl

@[simp] theorem readReg_writeReg (s : State) (r q : Reg) (v : Byte) :
    readReg (writeReg s r v) q = if q = r then v else readReg s q := Regs.get_set _ _ _ _

theorem readReg_congr {s t : State} (h : t.regs = s.regs) (r : Reg) : readReg t r = readReg s r := by
  unfold readReg; rw [h]

/-! What an update leaves alone, for the three reads. -/

@[simp] theorem readReg_loadDR1 (s : State) (v : Byte) (r : Reg) : readReg (loadDR1 s v) r = readReg s r := rfl
@[simp] theorem memRead_loadDR1 (s : State) (v : Byte) (b' a' : Byte) : memRead (loadDR1 s v) b' a' = memRead s b' a' := rfl
@[simp] theorem stackRead_loadDR1 (s : State) (v : Byte) (o' : Byte) : stackRead (loadDR1 s v) o' = stackRead s o' := rfl
@[simp] theorem readReg_loadDR2 (s : State) (v : Byte) (r : Reg) : readReg (loadDR2 s v) r = readReg s r := rfl
@[simp] theorem memRead_loadDR2 (s : State) (v : Byte) (b' a' : Byte) : memRead (loadDR2 s v) b' a' = memRead s b' a' := rfl
@[simp] theorem stackRead_loadDR2 (s : State) (v : Byte) (o' : Byte) : stackRead (loadDR2 s v) o' = stackRead s o' := rfl
@[simp] theorem readReg_jumpTo (s : State) (v w : Byte) (r : Reg) : readReg (jumpTo s v w) r = readReg s r := rfl
@[simp] theorem memRead_jumpTo (s : State) (v w : Byte) (b' a' : Byte) : memRead (jumpTo s v w) b' a' = memRead s b' a' := rfl
@[simp] theorem stackRead_jumpTo (s : State) (v w : Byte) (o' : Byte) : stackRead (jumpTo s v w) o' = stackRead s o' := rfl
@[simp] theorem readReg_compareBytes (s : State) (v w : Byte) (r : Reg) : readReg (compareBytes s v w) r = readReg s r := rfl
@[simp] theorem memRead_compareBytes (s : State) (v w : Byte) (b' a' : Byte) : memRead (compareBytes s v w) b' a' = memRead s b' a' := rfl
@[simp] theorem stackRead_compareBytes (s : State) (v w : Byte) (o' : Byte) : stackRead (compareBytes s v w) o' = stackRead s o' := rfl
@[simp] theorem readReg_haltWith (s : State) (why : HaltReason) (r : Reg) : readReg (haltWith s why) r = readReg s r := rfl
@[simp] theorem memRead_haltWith (s : State) (why : HaltReason) (b' a' : Byte) : memRead (haltWith s why) b' a' = memRead s b' a' := rfl
@[simp] theorem stackRead_haltWith (s : State) (why : HaltReason) (o' : Byte) : stackRead (haltWith s why) o' = stackRead s o' := rfl
@[simp] theorem readReg_raiseInvalidRegister (s : State) (c : Byte) (r : Reg) : readReg (raiseInvalidRegister s c) r = readReg s r := rfl
@[simp] theorem memRead_raiseInvalidRegister (s : State) (c : Byte) (b' a' : Byte) : memRead (raiseInvalidRegister s c) b' a' = memRead s b' a' := rfl
@[simp] theorem stackRead_raiseInvalidRegister (s : State) (c : Byte) (o' : Byte) : stackRead (raiseInvalidRegister s c) o' = stackRead s o' := rfl
@[simp] theorem readReg_memWrite (s : State) (b a v : Byte) (r : Reg) : readReg (memWrite s b a v) r = readReg s r := rfl
@[simp] theorem stackRead_memWrite (s : State) (b a v : Byte) (o' : Byte) : stackRead (memWrite s b a v) o' = stackRead s o' := rfl
@[simp] theorem readReg_stackWrite (s : State) (o v : Byte) (r : Reg) : readReg (stackWrite s o v) r = readReg s r := rfl
@[simp] theorem memRead_stackWrite (s : State) (o v : Byte) (b' a' : Byte) : memRead (stackWrite s o v) b' a' = memRead s b' a' := rfl
@[simp] theorem memRead_writeReg (s : State) (q : Reg) (v : Byte) (b' a' : Byte) : memRead (writeReg s q v) b' a' = memRead s b' a' := rfl
@[simp] theorem stackRead_writeReg (s : State) (q : Reg) (v : Byte) (o' : Byte) : stackRead (writeReg s q v) o' = stackRead s o' := rfl
@[simp] theorem memRead_pushByte (s : State) (v : Byte) (b' a' : Byte) : memRead (pushByte s v) b' a' = memRead s b' a' := rfl
@[simp] theorem readReg_changePointed (s : State) (f : Byte → Byte) (r : Reg) : readReg (changePointed s f) r = readReg s r := rfl
@[simp] theorem stackRead_changePointed (s : State) (f : Byte → Byte) (o' : Byte) : stackRead (changePointed s f) o' = stackRead s o' := rfl

/-! What a write changes, read back. -/

@[simp] theorem memRead_memWrite (s : State) (b a v b' a' : Byte) :
    memRead (memWrite s b a v) b' a' = if b' = b ∧ a' = a then v else memRead s b' a' := by
  simp [memRead, Memory.read_write, cellKey_inj]

@[simp] theorem stackRead_stackWrite (s : State) (o v o' : Byte) :
    stackRead (stackWrite s o v) o' = if o' = o then v else stackRead s o' := by
  simp only [stackRead, stackWrite_stack, Memory.read_write, ← BitVec.toNat_inj]

@[simp] theorem memRead_changePointed (s : State) (f : Byte → Byte) (b a : Byte) : memRead (changePointed s f) b a =
    if b = readReg s .BI ∧ a = readReg s .P then f (memRead s b a) else memRead s b a := by
  unfold changePointed
  rw [memRead_memWrite]
  split <;> simp_all

@[simp] theorem readReg_pushByte (s : State) (v : Byte) (r : Reg) :
    readReg (pushByte s v) r = if r = .S then readReg s .S + 1 else readReg s r := by simp [pushByte]

@[simp] theorem stackRead_pushByte (s : State) (v o : Byte) :
    stackRead (pushByte s v) o = if o = readReg s .S then v else stackRead s o := by simp [pushByte]

@[simp] theorem equalSet_loadDR1 (s : State) (v : Byte) : equalSet (loadDR1 s v) = s.flags.equal := rfl
@[simp] theorem equalClear_loadDR1 (s : State) (v : Byte) : equalClear (loadDR1 s v) = !s.flags.equal := rfl

@[simp] theorem Reg.ofCode_toCode (r : Reg) : Reg.ofCode r.toCode = some r := by cases r <;> rfl

/-- A code names a register exactly when it is valid (10_state.md R25). -/
theorem Reg.ofCode_isSome (c : Byte) : (Reg.ofCode c).isSome = validCode c := by
  unfold Reg.ofCode validCode
  split <;> simp_all <;> omega

theorem Reg.toCode_of_ofCode {c : Byte} {r : Reg} (h : Reg.ofCode c = some r) : c = r.toCode := by
  unfold Reg.ofCode at h
  split at h <;> simp at h <;> subst h <;> apply BitVec.eq_of_toNat_eq <;> assumption

@[simp] theorem withReg_toCode (s : State) (r : Reg) (f : Reg → State) : withReg s r.toCode f = .next (f r) := by
  simp [withReg]

theorem withReg_invalid (s : State) (c : Byte) (f : Reg → State) (h : validCode c = false) :
    withReg s c f = .next (raiseInvalidRegister s c) := by
  have : Reg.ofCode c = none := by rw [← Reg.ofCode_isSome] at h; simpa using h
  simp [withReg, this]

@[simp] theorem validCode_toCode (r : Reg) : validCode r.toCode = true := by cases r <;> rfl

theorem Reg.ofCode_invalid {c : Byte} (h : validCode c = false) : Reg.ofCode c = none := by
  rw [← Reg.ofCode_isSome] at h; simpa using h

/-- Every byte is the code of a register or an invalid code. -/
theorem code_cases (c : Byte) : (∃ r : Reg, c = r.toCode) ∨ validCode c = false := by
  cases h : Reg.ofCode c with
  | some r => exact .inl ⟨r, Reg.toCode_of_ofCode h⟩
  | none => exact .inr (by rw [← Reg.ofCode_isSome, h]; rfl)

theorem withRegs_valid (s : State) (r q : Reg) (f : Reg → Reg → State) (h1 : s.dr1 = r.toCode) (h2 : s.dr2 = q.toCode) :
    withRegs s f = .next (f r q) := by
  simp [withRegs, h1, h2]

theorem withRegs_invalid_first (s : State) (f : Reg → Reg → State) (h : validCode s.dr1 = false) :
    withRegs s f = .next (raiseInvalidRegister s s.dr1) := by
  simp [withRegs, Reg.ofCode_invalid h]

theorem withRegs_invalid_second (s : State) (f : Reg → Reg → State) (h1 : validCode s.dr1 = true)
    (h2 : validCode s.dr2 = false) : withRegs s f = .next (raiseInvalidRegister s s.dr2) := by
  rcases code_cases s.dr1 with ⟨r, hr⟩ | hr
  · simp [withRegs, hr, withReg_invalid _ _ _ h2]
  · rw [hr] at h1; cases h1

/-- Everything a one-code routine can do. -/
theorem withReg_cases (s : State) (c : Byte) (f : Reg → State) :
    (∃ r : Reg, c = r.toCode ∧ withReg s c f = .next (f r)) ∨
    (validCode c = false ∧ withReg s c f = .next (raiseInvalidRegister s c)) := by
  cases h : Reg.ofCode c with
  | some r => exact .inl ⟨r, Reg.toCode_of_ofCode h, by simp [withReg, h]⟩
  | none => exact .inr ⟨by rw [← Reg.ofCode_isSome, h]; rfl, by simp [withReg, h]⟩

/-- Everything a two-code routine can do. -/
theorem withRegs_cases (s : State) (f : Reg → Reg → State) :
    (∃ r1 r2 : Reg, s.dr1 = r1.toCode ∧ s.dr2 = r2.toCode ∧ withRegs s f = .next (f r1 r2)) ∨
    (validCode s.dr1 = false ∧ withRegs s f = .next (raiseInvalidRegister s s.dr1)) ∨
    (validCode s.dr1 = true ∧ validCode s.dr2 = false ∧ withRegs s f = .next (raiseInvalidRegister s s.dr2)) := by
  cases h : Reg.ofCode s.dr1 with
  | none => exact .inr (.inl ⟨by rw [← Reg.ofCode_isSome, h]; rfl, by simp [withRegs, h]⟩)
  | some r1 =>
    have hv : validCode s.dr1 = true := by rw [← Reg.ofCode_isSome, h]; rfl
    rcases withReg_cases s s.dr2 (fun r2 => f r1 r2) with ⟨r2, h2, e⟩ | ⟨h2, e⟩
    · exact .inl ⟨r1, r2, Reg.toCode_of_ofCode h, h2, by simp [withRegs, h, e]⟩
    · exact .inr (.inr ⟨hv, h2, by simp [withRegs, h, e]⟩)

end Sys2Proof.Machine
end

