-- ==== Sys2Proof/Laws/PerInstr.lean ====
section
/-! SUPPORT. Per instruction: the word of the opcode table that stands for it, op * 256 + operand (30_encoding.md R90), is
read back by the decoder, whatever the operand byte. -/
namespace Sys2Proof.Laws.TableWord

/-- The numeral is R101's; the operand byte is any of the 256. -/
def Statement (i : Instr) : Prop :=
  decodeTableWord 16 ((OpcodeMap.default i.opcode).toNat * 256 + i.operandByte.toNat) = some i

/-- The two bytes of a table word. -/
theorem tableWordBytes_pair (op : Nat) (x : Byte) (h : op < 256) :
    tableWordBytes 16 (op * 256 + x.toNat) = [BitVec.ofNat 8 op, x] := by
  have hx := x.isLt
  have h1 : (op * 256 + x.toNat) % 2 ^ 16 = op * 256 + x.toNat := Nat.mod_eq_of_lt (by omega)
  have h2 : (op * 256 + x.toNat) / 256 = op := by omega
  simp only [tableWordBytes, h1, h2]
  congr 2
  apply BitVec.eq_of_toNat_eq
  simp only [BitVec.toNat_ofNat]
  omega

theorem nop (x : Byte) : Statement (.nop x) := by
  rw [Statement, decodeTableWord]; erw [tableWordBytes_pair 0x00 x (by decide)]; rfl
theorem soi (x : Byte) : Statement (.soi x) := by
  rw [Statement, decodeTableWord]; erw [tableWordBytes_pair 0x01 x (by decide)]; rfl
theorem sor (x : Byte) : Statement (.sor x) := by
  rw [Statement, decodeTableWord]; erw [tableWordBytes_pair 0x02 x (by decide)]; rfl
theorem addi (x : Byte) : Statement (.addi x) := by
  rw [Statement, decodeTableWord]; erw [tableWordBytes_pair 0x03 x (by decide)]; rfl
theorem addr (x : Byte) : Statement (.addr x) := by
  rw [Statement, decodeTableWord]; erw [tableWordBytes_pair 0x04 x (by decide)]; rfl
theorem subi (x : Byte) : Statement (.subi x) := by
  rw [Statement, decodeTableWord]; erw [tableWordBytes_pair 0x05 x (by decide)]; rfl
theorem subr (x : Byte) : Statement (.subr x) := by
  rw [Statement, decodeTableWord]; erw [tableWordBytes_pair 0x06 x (by decide)]; rfl
theorem ldi (x : Byte) : Statement (.ldi x) := by
  rw [Statement, decodeTableWord]; erw [tableWordBytes_pair 0x07 x (by decide)]; rfl
theorem cpy (x : Byte) : Statement (.cpy x) := by
  rw [Statement, decodeTableWord]; erw [tableWordBytes_pair 0x08 x (by decide)]; rfl
theorem wrp (x : Byte) : Statement (.wrp x) := by
  rw [Statement, decodeTableWord]; erw [tableWordBytes_pair 0x09 x (by decide)]; rfl
theorem rdp (x : Byte) : Statement (.rdp x) := by
  rw [Statement, decodeTableWord]; erw [tableWordBytes_pair 0x0A x (by decide)]; rfl
theorem lsl (x : Byte) : Statement (.lsl x) := by
  rw [Statement, decodeTableWord]; erw [tableWordBytes_pair 0x0B x (by decide)]; rfl
theorem lsr (x : Byte) : Statement (.lsr x) := by
  rw [Statement, decodeTableWord]; erw [tableWordBytes_pair 0x0C x (by decide)]; rfl
theorem jmpi (x : Byte) : Statement (.jmpi x) := by
  rw [Statement, decodeTableWord]; erw [tableWordBytes_pair 0x0D x (by decide)]; rfl
theorem jmpr (x : Byte) : Statement (.jmpr x) := by
  rw [Statement, decodeTableWord]; erw [tableWordBytes_pair 0x0E x (by decide)]; rfl
theorem jei (x : Byte) : Statement (.jei x) := by
  rw [Statement, decodeTableWord]; erw [tableWordBytes_pair 0x0F x (by decide)]; rfl
theorem jer (x : Byte) : Statement (.jer x) := by
  rw [Statement, decodeTableWord]; erw [tableWordBytes_pair 0x10 x (by decide)]; rfl
theorem jnei (x : Byte) : Statement (.jnei x) := by
  rw [Statement, decodeTableWord]; erw [tableWordBytes_pair 0x11 x (by decide)]; rfl
theorem jner (x : Byte) : Statement (.jner x) := by
  rw [Statement, decodeTableWord]; erw [tableWordBytes_pair 0x12 x (by decide)]; rfl
theorem cmpi (x : Byte) : Statement (.cmpi x) := by
  rw [Statement, decodeTableWord]; erw [tableWordBytes_pair 0x13 x (by decide)]; rfl
theorem cmpr (x : Byte) : Statement (.cmpr x) := by
  rw [Statement, decodeTableWord]; erw [tableWordBytes_pair 0x14 x (by decide)]; rfl
theorem mri (x : Byte) : Statement (.mri x) := by
  rw [Statement, decodeTableWord]; erw [tableWordBytes_pair 0x15 x (by decide)]; rfl
theorem mrr (x : Byte) : Statement (.mrr x) := by
  rw [Statement, decodeTableWord]; erw [tableWordBytes_pair 0x16 x (by decide)]; rfl
theorem mwi (x : Byte) : Statement (.mwi x) := by
  rw [Statement, decodeTableWord]; erw [tableWordBytes_pair 0x17 x (by decide)]; rfl
theorem mwr (x : Byte) : Statement (.mwr x) := by
  rw [Statement, decodeTableWord]; erw [tableWordBytes_pair 0x18 x (by decide)]; rfl
theorem pushi (x : Byte) : Statement (.pushi x) := by
  rw [Statement, decodeTableWord]; erw [tableWordBytes_pair 0x19 x (by decide)]; rfl
theorem pushr (x : Byte) : Statement (.pushr x) := by
  rw [Statement, decodeTableWord]; erw [tableWordBytes_pair 0x1A x (by decide)]; rfl
theorem pop (x : Byte) : Statement (.pop x) := by
  rw [Statement, decodeTableWord]; erw [tableWordBytes_pair 0x1B x (by decide)]; rfl
theorem incb (x : Byte) : Statement (.incb x) := by
  rw [Statement, decodeTableWord]; erw [tableWordBytes_pair 0x1C x (by decide)]; rfl
theorem decb (x : Byte) : Statement (.decb x) := by
  rw [Statement, decodeTableWord]; erw [tableWordBytes_pair 0x1D x (by decide)]; rfl
theorem incr (x : Byte) : Statement (.incr x) := by
  rw [Statement, decodeTableWord]; erw [tableWordBytes_pair 0x1E x (by decide)]; rfl
theorem decr (x : Byte) : Statement (.decr x) := by
  rw [Statement, decodeTableWord]; erw [tableWordBytes_pair 0x1F x (by decide)]; rfl
theorem andi (x : Byte) : Statement (.andi x) := by
  rw [Statement, decodeTableWord]; erw [tableWordBytes_pair 0x20 x (by decide)]; rfl
theorem andr (x : Byte) : Statement (.andr x) := by
  rw [Statement, decodeTableWord]; erw [tableWordBytes_pair 0x21 x (by decide)]; rfl
theorem ori (x : Byte) : Statement (.ori x) := by
  rw [Statement, decodeTableWord]; erw [tableWordBytes_pair 0x22 x (by decide)]; rfl
theorem orr (x : Byte) : Statement (.orr x) := by
  rw [Statement, decodeTableWord]; erw [tableWordBytes_pair 0x23 x (by decide)]; rfl
theorem xori (x : Byte) : Statement (.xori x) := by
  rw [Statement, decodeTableWord]; erw [tableWordBytes_pair 0x24 x (by decide)]; rfl
theorem xorr (x : Byte) : Statement (.xorr x) := by
  rw [Statement, decodeTableWord]; erw [tableWordBytes_pair 0x25 x (by decide)]; rfl
theorem not (x : Byte) : Statement (.not x) := by
  rw [Statement, decodeTableWord]; erw [tableWordBytes_pair 0x26 x (by decide)]; rfl
theorem bsi (x : Byte) : Statement (.bsi x) := by
  rw [Statement, decodeTableWord]; erw [tableWordBytes_pair 0x27 x (by decide)]; rfl
theorem bsr (x : Byte) : Statement (.bsr x) := by
  rw [Statement, decodeTableWord]; erw [tableWordBytes_pair 0x28 x (by decide)]; rfl

end Sys2Proof.Laws.TableWord
end

