-- ==== Sys2Proof/Tests/Slice0.lean ====
section
/-! SUPPORT. The model's own tests: every constructor's word written out from the spec's encoding, one or two steps per
instruction with the results of spec/95_test_vectors.md (V-... and T... name the vector), and, for every statement with
hypotheses, a witness that meets them. -/
namespace Sys2Proof.Tests
open Sys2Proof.Machine

/-- Loaded and RUNNING, everything else at its reset value, PROG_LEN 65,536: the start state of the vectors. -/
def start : State := { State.reset with run := .running, progLen := 65536, loadAttempted := true }

/-- The start state with PROG_LEN 0. -/
def emptyProgram : State := { State.reset with run := .running, loadAttempted := true }

/-- The start state with bytes at (0, 0). -/
def code (bytes : List Byte) : State := { start with mem := writeImage [] 0 bytes }

/-- The outcome is a next state that satisfies the check. -/
def ends (o : Host.Outcome State Fault Refusal) (check : State → Bool) : Bool :=
  match o with
  | .next t => check t
  | _ => false

/-- The next state is the given one. -/
def isState (t : State) (u : State) : Bool := decide (u = t)

/-! ### Decoding: opcode byte from the table's encoding string, operand byte 10100101 -/

theorem test_decode_latch :
    decodeTableWord 16 0b0000000010100101 = some (.nop 0b10100101) ∧
    decodeTableWord 16 0b0000000110100101 = some (.soi 0b10100101) ∧
    decodeTableWord 16 0b0000001010100101 = some (.sor 0b10100101) := by decide

theorem test_decode_arithmetic :
    decodeTableWord 16 0b0000001110100101 = some (.addi 0b10100101) ∧
    decodeTableWord 16 0b0000010010100101 = some (.addr 0b10100101) ∧
    decodeTableWord 16 0b0000010110100101 = some (.subi 0b10100101) ∧
    decodeTableWord 16 0b0000011010100101 = some (.subr 0b10100101) := by decide

theorem test_decode_transfer :
    decodeTableWord 16 0b0000011110100101 = some (.ldi 0b10100101) ∧
    decodeTableWord 16 0b0000100010100101 = some (.cpy 0b10100101) := by decide

theorem test_decode_pointer :
    decodeTableWord 16 0b0000100110100101 = some (.wrp 0b10100101) ∧
    decodeTableWord 16 0b0000101010100101 = some (.rdp 0b10100101) := by decide

theorem test_decode_shift :
    decodeTableWord 16 0b0000101110100101 = some (.lsl 0b10100101) ∧
    decodeTableWord 16 0b0000110010100101 = some (.lsr 0b10100101) := by decide

theorem test_decode_jump :
    decodeTableWord 16 0b0000110110100101 = some (.jmpi 0b10100101) ∧
    decodeTableWord 16 0b0000111010100101 = some (.jmpr 0b10100101) ∧
    decodeTableWord 16 0b0000111110100101 = some (.jei 0b10100101) ∧
    decodeTableWord 16 0b0001000010100101 = some (.jer 0b10100101) ∧
    decodeTableWord 16 0b0001000110100101 = some (.jnei 0b10100101) ∧
    decodeTableWord 16 0b0001001010100101 = some (.jner 0b10100101) := by decide

theorem test_decode_compare :
    decodeTableWord 16 0b0001001110100101 = some (.cmpi 0b10100101) ∧
    decodeTableWord 16 0b0001010010100101 = some (.cmpr 0b10100101) := by decide

theorem test_decode_memory :
    decodeTableWord 16 0b0001010110100101 = some (.mri 0b10100101) ∧
    decodeTableWord 16 0b0001011010100101 = some (.mrr 0b10100101) ∧
    decodeTableWord 16 0b0001011110100101 = some (.mwi 0b10100101) ∧
    decodeTableWord 16 0b0001100010100101 = some (.mwr 0b10100101) := by decide

theorem test_decode_stack :
    decodeTableWord 16 0b0001100110100101 = some (.pushi 0b10100101) ∧
    decodeTableWord 16 0b0001101010100101 = some (.pushr 0b10100101) ∧
    decodeTableWord 16 0b0001101110100101 = some (.pop 0b10100101) := by decide

theorem test_decode_incdec :
    decodeTableWord 16 0b0001110010100101 = some (.incb 0b10100101) ∧
    decodeTableWord 16 0b0001110110100101 = some (.decb 0b10100101) ∧
    decodeTableWord 16 0b0001111010100101 = some (.incr 0b10100101) ∧
    decodeTableWord 16 0b0001111110100101 = some (.decr 0b10100101) := by decide

theorem test_decode_logic :
    decodeTableWord 16 0b0010000010100101 = some (.andi 0b10100101) ∧
    decodeTableWord 16 0b0010000110100101 = some (.andr 0b10100101) ∧
    decodeTableWord 16 0b0010001010100101 = some (.ori 0b10100101) ∧
    decodeTableWord 16 0b0010001110100101 = some (.orr 0b10100101) ∧
    decodeTableWord 16 0b0010010010100101 = some (.xori 0b10100101) ∧
    decodeTableWord 16 0b0010010110100101 = some (.xorr 0b10100101) ∧
    decodeTableWord 16 0b0010011010100101 = some (.not 0b10100101) := by decide

theorem test_decode_bank :
    decodeTableWord 16 0b0010011110100101 = some (.bsi 0b10100101) ∧
    decodeTableWord 16 0b0010100010100101 = some (.bsr 0b10100101) := by decide

theorem test_decode_unknown : decodeTableWord 16 0x29A5 = none ∧ decodeTableWord 16 0xFFFF = none := by decide

theorem test_encode : encode .default (.subr 0x02) = [0x06, 0x02] ∧ encode .default (.bsi 0xFB) = [0x27, 0xFB] := by decide

/-! ### WellFormed: an ill-formed term for each check -/

theorem test_wf_refuses_code_zero : Instr.wf (.ldi 0) = false := by decide
theorem test_wf_refuses_code_eight : Instr.wf (.jner 8) = false := by decide
theorem test_wf_allows_values : Instr.wf (.addi 0) = true ∧ Instr.wf (.pop 200) = true ∧ Instr.wf (.sor 200) = true := by decide
theorem test_latchWf_refuses_code_zero : Instr.latchWf (.andi 1) 0 = false := by decide
theorem test_latchWf_allows_values : Instr.latchWf (.ldi 1) 0 = true ∧ Instr.latchWf (.incr 1) 0 = true := by decide
theorem test_map_wf_refuses_constant : ¬ OpcodeMap.wf (fun _ => 0) := fun h => by cases h .nop .soi rfl
theorem test_imageWf_refuses_long : imageWf (List.replicate 65537 0) = false :=
  (imageWf_false_iff _).mpr (Nat.lt_of_lt_of_eq (Nat.lt_succ_self _) List.length_replicate.symm)

/-! ### One step per instruction -/

/-- V-NOP-2 -/
theorem test_nop_clears_latch : ends (step ({ code [0x00, 0xC8] with regs := ⟨1, 0, 0, 0, 0, 0, 0⟩, dr2 := 0x55 })) (fun t => t.dr2 == 0 && t.dr1 == 0 && t.regs.A == 1 && t.pc == ⟨0, 2⟩) = true := by decide
/-- V-SOI-1 -/
theorem test_soi_primes_latch : ends (step (code [0x01, 0x07])) (fun t => t.dr2 == 7 && t.dr1 == 0 && t.pc == ⟨0, 2⟩) = true := by decide
/-- V-SOR-1 -/
theorem test_sor_stores_unchecked : ends (step (code [0x02, 0xC8])) (fun t => t.dr2 == 200 && t.run == .running && t.pc == ⟨0, 2⟩) = true := by decide
/-- V-UNK-1, V-UNK-2: the latch is kept -/
theorem test_unknown_opcode : ends (step ({ code [0x29, 0x07] with regs := ⟨3, 0, 0, 0, 0, 0, 0⟩, dr2 := 0x55, flags := ⟨false, false, true, false⟩ })) (fun t => t.unk == 1 && t.regs.A == 3 && t.dr2 == 0x55 && t.dr1 == 7 && t.pc == ⟨0, 2⟩) = true := by decide
/-- V-ADD-1, T2 -/
theorem test_addi_wraps : ends (step ({ code [0x03, 0x0A] with regs := ⟨250, 0, 0, 0, 0, 0, 0⟩, flags := ⟨false, false, true, false⟩ })) (fun t => t.regs.A == 4 && t.flags == ⟨false, false, true, false⟩ && t.pc == ⟨0, 2⟩) = true := by decide
/-- V-ADD-5 -/
theorem test_addr_wraps : ends (step ({ code [0x04, 0x02] with regs := ⟨200, 100, 0, 0, 0, 0, 0⟩ })) (fun t => t.regs.A == 44 && t.regs.B == 100) = true := by decide
/-- V-ADD-6 -/
theorem test_addr_same_register : ends (step ({ code [0x04, 0x01] with regs := ⟨0x90, 0, 0, 0, 0, 0, 0⟩ })) (fun t => t.regs.A == 0x20) = true := by decide
/-- V-ADD-9 -/
theorem test_addr_invalid_code : ends (step ({ code [0x04, 0x08] with regs := ⟨1, 0, 0, 0, 0, 0, 0⟩ })) (fun t => t.regs.A == 1 && t.run == .halted && t.haltReason == .fault && t.fault == ⟨.invalidRegister, 8, 0, 0⟩ && t.pc == ⟨0, 0⟩) = true := by decide
/-- V-SUB-3 -/
theorem test_subi_wraps : ends (step ({ code [0x05, 0x0A] with regs := ⟨3, 0, 0, 0, 0, 0, 0⟩ })) (fun t => t.regs.A == 0xF9) = true := by decide
/-- V-SUB-4 -/
theorem test_subr_order : ends (step ({ code [0x06, 0x02] with regs := ⟨1, 2, 0, 0, 0, 0, 0⟩ })) (fun t => t.regs.A == 0xFF && t.regs.B == 2) = true := by decide
/-- V-LDI-2 (its LDI) -/
theorem test_ldi_bank : ends (step ({ code [0x07, 0x05] with dr2 := 0xFB })) (fun t => t.regs.BI == 0xFB && t.dr2 == 0xFB) = true := by decide
/-- V-CPY-3 (its CPY) -/
theorem test_cpy_reads_s : ends (step ({ code [0x08, 0x01] with regs := ⟨0, 0, 0, 0, 0, 0, 3⟩, dr2 := 7 })) (fun t => t.regs.A == 3 && t.regs.S == 3) = true := by decide
/-- V-CPY-5 (its CPY) -/
theorem test_cpy_reports_dr1_first : ends (step ({ code [0x08, 0x00] with regs := ⟨5, 0, 0, 0, 0, 0, 0⟩, dr2 := 9 })) (fun t => t.fault == ⟨.invalidRegister, 0, 0, 0⟩ && t.regs.A == 5) = true := by decide
/-- V-WRP-1 -/
theorem test_wrp_stores : ends (step ({ code [0x09, 0x01] with regs := ⟨0x3F, 0, 0, 0, 251, 16, 0⟩ })) (fun t => memRead t 251 16 == 0x3F && displayByte t 0 16 == 0x3F && memRead t 0 0 == 9) = true := by decide
/-- V-RDP-2 (its first RDP) -/
theorem test_rdp_to_pointer : ends (step (memWrite ({ code [0x0A, 0x06] with regs := ⟨0, 0, 0, 0, 0, 128, 0⟩ }) 0 128 0x90)) (fun t => t.regs.P == 144) = true := by decide
/-- V-RDP-3 -/
theorem test_rdp_to_bank : ends (step (memWrite ({ code [0x0A, 0x05] with regs := ⟨0, 0, 0, 0, 4, 1, 0⟩ }) 4 1 9)) (fun t => t.regs.BI == 9) = true := by decide
/-- V-LSL-3 -/
theorem test_lsl_drops_bit_7 : ends (step ({ code [0x0B, 0x03] with regs := ⟨0, 0, 0xFF, 0, 0, 0, 0⟩ })) (fun t => t.regs.C == 0xFE) = true := by decide
/-- V-LSR-3 -/
theorem test_lsr_fills_with_zero : ends (step ({ code [0x0C, 0x04] with regs := ⟨0, 0, 0, 0xFF, 0, 0, 0⟩ })) (fun t => t.regs.D == 0x7F) = true := by decide
/-- V-JMP-1, T5 (its JMPI) -/
theorem test_jmpi_is_not_advanced : ends (step ({ code [0x0D, 0x0A] with regs := ⟨0, 0, 0, 0, 7, 0, 0⟩, dr2 := 2 })) (fun t => t.pc == ⟨2, 10⟩ && t.jf && t.regs.BI == 7) = true := by decide
/-- V-JMP-4 (its JMPR) -/
theorem test_jmpr_bank_and_address : ends (step ({ code [0x0E, 0x01] with regs := ⟨0x40, 0, 0, 1, 0, 0, 0⟩, dr2 := 4 })) (fun t => t.pc == ⟨1, 64⟩) = true := by decide
/-- V-JMP-6 (its JMPR) -/
theorem test_jmpr_invalid_bank_code : ends (step ({ code [0x0E, 0x01] with regs := ⟨0x40, 0, 0, 0, 0, 0, 0⟩ })) (fun t => t.fault == ⟨.invalidRegister, 0, 0, 0⟩ && t.pc == ⟨0, 0⟩ && !t.jf) = true := by decide
/-- V-JE-1 (its JEI) -/
theorem test_jei_taken : ends (step ({ code [0x0F, 0x20] with flags := ⟨false, false, true, false⟩ })) (fun t => t.pc == ⟨0, 32⟩ && t.flags.equal) = true := by decide
/-- V-JE-2 (its JEI) -/
theorem test_jei_not_taken : ends (step (code [0x0F, 0x20])) (fun t => t.pc == ⟨0, 2⟩ && !t.jf) = true := by decide
/-- V-JE-3 (its JER) -/
theorem test_jer_taken : ends (step ({ code [0x10, 0x03] with regs := ⟨0, 0, 0x10, 0, 0, 0, 0⟩, dr2 := 2, flags := ⟨false, false, true, false⟩ })) (fun t => t.pc == ⟨0, 16⟩) = true := by decide
/-- V-JE-5 (its JER) -/
theorem test_jer_not_taken_still_faults : ends (step ({ code [0x10, 0x03] with regs := ⟨0, 0, 0x10, 0, 0, 0, 0⟩ })) (fun t => t.haltReason == .fault && t.fault.code == 0) = true := by decide
/-- R174 (EQUAL = 0) -/
theorem test_jnei_taken : ends (step ({ code [0x11, 0x40] with dr2 := 3 })) (fun t => t.pc == ⟨3, 64⟩) = true := by decide
/-- V-JNE-2 (its JNEI) -/
theorem test_jnei_not_taken : ends (step ({ code [0x11, 0x20] with flags := ⟨false, false, true, false⟩ })) (fun t => t.pc == ⟨0, 2⟩) = true := by decide
/-- V-JNE-3 (its JNER) -/
theorem test_jner_taken : ends (step ({ code [0x12, 0x01] with regs := ⟨8, 0, 0, 2, 0, 0, 0⟩, dr2 := 4 })) (fun t => t.pc == ⟨2, 8⟩) = true := by decide
/-- V-CMP-1 (its CMPI) -/
theorem test_cmpi_sets : ends (step ({ code [0x13, 0x01] with regs := ⟨5, 0, 0, 0, 0, 0, 0⟩, dr2 := 5 })) (fun t => t.flags == ⟨false, false, true, false⟩) = true := by decide
/-- V-CMP-2 (its CMPI) -/
theorem test_cmpi_clears : ends (step ({ code [0x13, 0x01] with regs := ⟨6, 0, 0, 0, 0, 0, 0⟩, dr2 := 5, flags := ⟨false, false, true, false⟩ })) (fun t => !t.flags.equal) = true := by decide
/-- V-CMP-5 (its CMPR) -/
theorem test_cmpr_sets : ends (step ({ code [0x14, 0x01] with regs := ⟨7, 7, 0, 0, 0, 0, 0⟩, dr2 := 2 })) (fun t => t.flags.equal) = true := by decide
/-- V-CMP-6 (its CMPR) -/
theorem test_cmpr_clears : ends (step ({ code [0x14, 0x01] with regs := ⟨7, 8, 0, 0, 0, 0, 0⟩, dr2 := 2, flags := ⟨false, false, true, false⟩ })) (fun t => !t.flags.equal) = true := by decide
/-- V-MR-1 (its MRI) -/
theorem test_mri_uses_bi : ends (step (memWrite ({ code [0x15, 0x01] with regs := ⟨0, 0, 0, 0, 3, 0, 0⟩, dr2 := 0x40 }) 3 64 0x99)) (fun t => t.regs.A == 0x99) = true := by decide
/-- V-MR-3 (its MRI) -/
theorem test_mri_bank_is_not_pc_bank : ends (step ({ code [0x15, 0x01] with regs := ⟨7, 0, 0, 0, 1, 0, 0⟩ })) (fun t => t.regs.A == 0) = true := by decide
/-- V-MR-6 (its MRR) -/
theorem test_mrr_same_register : ends (step (memWrite ({ code [0x16, 0x01] with regs := ⟨0x80, 0, 0, 0, 0, 0, 0⟩, dr2 := 1 }) 0 128 0x11)) (fun t => t.regs.A == 0x11) = true := by decide
/-- V-MW-2 (its MWI) -/
theorem test_mwi_modifies_code : ends (step ({ code [0x17, 0x01] with regs := ⟨3, 0, 0, 0, 0, 0, 0⟩, dr2 := 4 })) (fun t => memRead t 0 4 == 3 && t.regs.A == 3) = true := by decide
/-- V-MW-4 (its MWR) -/
theorem test_mwr_top_of_bank : ends (step ({ code [0x18, 0x01] with regs := ⟨0x0C, 0, 0, 255, 252, 0, 0⟩, dr2 := 4 })) (fun t => memRead t 252 255 == 0x0C) = true := by decide
/-- V-PUSH-2 (its first PUSHI) -/
theorem test_pushi_wraps : ends (step ({ code [0x19, 0x07] with regs := ⟨0, 0, 0, 0, 0, 0, 255⟩ })) (fun t => t.regs.S == 0 && stackRead t 255 == 7) = true := by decide
/-- V-PUSH-3 (its PUSHR) -/
theorem test_pushr_zeroes : ends (step ({ code [0x1A, 0x01] with regs := ⟨9, 0, 0, 0, 0, 0, 0⟩ })) (fun t => t.regs.A == 0 && t.regs.S == 1 && stackRead t 0 == 9) = true := by decide
/-- V-PUSH-4 -/
theorem test_pushr_of_s : ends (step ({ code [0x1A, 0x07] with regs := ⟨0, 0, 0, 0, 0, 0, 5⟩ })) (fun t => t.regs.S == 0 && stackRead t 5 == 5) = true := by decide
/-- V-POP-2 -/
theorem test_pop_wraps : ends (step ({ code [0x1B, 0x00] with stack := [(255, 0x66)] })) (fun t => t.regs.B == 0x66 && t.regs.S == 255) = true := by decide
/-- V-POP-3 -/
theorem test_pop_ignores_operand : ends (step ({ code [0x1B, 0xC8] with regs := ⟨0, 1, 0, 0, 0, 0, 2⟩, stack := [(1, 0x31)] })) (fun t => t.regs.B == 0x31 && t.regs.S == 1 && t.run == .running) = true := by decide
/-- V-INC-1 -/
theorem test_incb_wraps : ends (step (memWrite ({ code [0x1C, 0x00] with regs := ⟨0, 0, 0, 0, 0, 144, 0⟩ }) 0 144 0xFF)) (fun t => memRead t 0 144 == 0 && t.regs.P == 144) = true := by decide
/-- V-INC-3 -/
theorem test_decb_wraps : ends (step ({ code [0x1D, 0x00] with regs := ⟨0, 0, 0, 0, 0, 144, 0⟩ })) (fun t => memRead t 0 144 == 0xFF) = true := by decide
/-- V-INC-7 -/
theorem test_incr_no_carry_into_bank : ends (step ({ code [0x1E, 0x06] with regs := ⟨0, 0, 0, 0, 3, 255, 0⟩ })) (fun t => t.regs.P == 0 && t.regs.BI == 3) = true := by decide
/-- V-DEC-1, T3 -/
theorem test_decr_wraps : ends (step (code [0x1F, 0x03])) (fun t => t.regs.C == 0xFF) = true := by decide
/-- V-AND-1 (its ANDI) -/
theorem test_andi_destination_in_dr2 : ends (step ({ code [0x20, 0x0F] with regs := ⟨0xB7, 0, 0, 0, 0, 0, 0⟩, dr2 := 1 })) (fun t => t.regs.A == 0x07) = true := by decide
/-- V-AND-3 -/
theorem test_andi_stale_latch_faults : ends (step ({ code [0x20, 0x0F] with regs := ⟨0xB7, 0, 0, 0, 0, 0, 0⟩ })) (fun t => t.fault == ⟨.invalidRegister, 0, 0, 0⟩ && t.regs.A == 0xB7) = true := by decide
/-- V-AND-4 (its ANDR) -/
theorem test_andr_keeps_source : ends (step ({ code [0x21, 0x02] with regs := ⟨0xF0, 0x3C, 0, 0, 0, 0, 0⟩, dr2 := 1 })) (fun t => t.regs.A == 0x30 && t.regs.B == 0x3C) = true := by decide
/-- V-OR-1 (its ORI) -/
theorem test_ori : ends (step ({ code [0x22, 0x80] with regs := ⟨0, 0, 0x41, 0, 0, 0, 0⟩, dr2 := 3 })) (fun t => t.regs.C == 0xC1) = true := by decide
/-- V-OR-3 (its ORR) -/
theorem test_orr : ends (step ({ code [0x23, 0x04] with regs := ⟨0x0F, 0, 0, 0x30, 0, 0, 0⟩, dr2 := 1 })) (fun t => t.regs.A == 0x3F && t.regs.D == 0x30) = true := by decide
/-- V-XOR-1 (its XORI) -/
theorem test_xori : ends (step ({ code [0x24, 0xFF] with regs := ⟨0, 0xAA, 0, 0, 0, 0, 0⟩, dr2 := 2 })) (fun t => t.regs.B == 0x55) = true := by decide
/-- V-XOR-2 (its XORR) -/
theorem test_xorr : ends (step ({ code [0x25, 0x02] with regs := ⟨0x5A, 0x0F, 0, 0, 0, 0, 0⟩, dr2 := 1 })) (fun t => t.regs.A == 0x55 && t.regs.B == 0x0F) = true := by decide
/-- V-NOT-1 -/
theorem test_not : ends (step ({ code [0x26, 0x04] with regs := ⟨0, 0, 0, 0x0F, 0, 0, 0⟩ })) (fun t => t.regs.D == 0xF0) = true := by decide
/-- V-BS-1 -/
theorem test_bsi_never_touches_pc : ends (step (code [0x27, 0xFB])) (fun t => t.regs.BI == 0xFB && t.pc == ⟨0, 2⟩) = true := by decide
/-- V-BS-3 -/
theorem test_bsr : ends (step ({ code [0x28, 0x03] with regs := ⟨0, 0, 0xFC, 0, 0, 0, 0⟩ })) (fun t => t.regs.BI == 0xFC && t.regs.C == 0xFC) = true := by decide

/-! ### The cycle and the host -/

/-- V-END-1 -/
theorem test_empty_program_ends : ends (step { start with progLen := 0 }) (fun t =>
    t.run == .halted && t.haltReason == .endOfProgram && t.pc == ⟨0, 0⟩) = true := by decide
/-- V-END-3: the operand byte from outside the image -/
theorem test_odd_image_runs : ends (step { code [0x03] with progLen := 1 }) (fun t =>
    t.run == .running && t.regs.A == 0 && t.pc == ⟨0, 2⟩) = true := by decide
/-- V-ROLL-3 (its advance from 253) -/
theorem test_advance_from_253 : ends (step (memWrite (memWrite { start with pc := ⟨0, 253⟩ } 0 253 0x1E) 0 254 1)) (fun t =>
    t.regs.A == 1 && t.pc == ⟨0, 255⟩) = true := by decide
/-- V-ROLL-4 -/
theorem test_bank_wraps : ends (step (memWrite (memWrite { start with pc := ⟨255, 254⟩ } 255 254 0x1E) 255 255 1)) (fun t =>
    t.regs.A == 1 && t.pc == ⟨0, 0⟩ && t.run == .running) = true := by decide
/-- V-ROLL-5 -/
theorem test_fetch_rolls_over : ends (step { code [0x1E, 0x01] with pc := ⟨255, 255⟩ }) (fun t =>
    t.regs.A == 1 && t.pc == ⟨0, 2⟩) = true := by decide
/-- V-ROLL-6 -/
theorem test_fault_after_roll_over : ends (step (memWrite { start with pc := ⟨0, 255⟩ } 1 0 0x1E)) (fun t =>
    t.fault == ⟨.invalidRegister, 0, 1, 0⟩ && t.pc == ⟨1, 0⟩ && t.haltReason == .fault) = true := by decide
/-- V-QUIT-2 -/
theorem test_quit_before_end : ends (step { code [0x03, 0x01] with progLen := 2, quitSamples := [true] }) (fun t =>
    t.regs.A == 1 && t.pc == ⟨0, 2⟩ && t.run == .halted && t.haltReason == .quit) = true := by decide
/-- V-QUIT-3 -/
theorem test_fault_samples_no_quit : ends (step { code [0x1E, 0x00] with progLen := 2, quitSamples := [true] }) (fun t =>
    t.haltReason == .fault && t.quitSamples == [true]) = true := by decide
/-- V-HALT-1, V-RESET-1: no cycle is performed before load -/
theorem test_reset_performs_no_cycle : ends (step State.reset) (isState State.reset) = true := by decide
/-- P1, its image loaded -/
theorem test_load : ends (load (.complete [0x01, 0x07, 0x07, 0x01]) State.reset) (fun t =>
    memRead t 0 1 == 7 && t.progLen == 4 && t.pc == ⟨0, 0⟩ && t.run == .running && t.haltReason == .none) = true := by decide
/-- T8: byte 299 of an image is at (1, 43) -/
theorem test_load_next_bank : Memory.read (writeImage [] 255 [0x11, 0x22]) (cellKey 0 255) = 0x11 ∧
    Memory.read (writeImage [] 255 [0x11, 0x22]) (cellKey 1 0) = 0x22 := by decide
/-- 70_reset_and_hazards.md R285: after a failed load that wrote nothing, "the host must reset before trying again" -/
theorem test_no_retry_without_reset : ends (load (.ioFailure []) State.reset) (fun t =>
    t.run == .halted && t.haltReason == .none && ends (load (.complete [0x00, 0x00]) (hostReset t)) (fun u => u.run == .running) &&
    !ends (load (.complete [0x00, 0x00]) t) (fun _ => true)) = true := by decide
/-- A table word placed in the reset state is what the next step runs: ADDI 10. -/
theorem test_withFetchWord : ends (step (State.reset.withFetchWord 16 0x030A)) (fun t =>
    t.regs.A == 10 && t.pc == ⟨0, 2⟩ && t.run == .running && t.progLen == 2) = true := by decide

/-! ### Witnesses for the statements with hypotheses -/

theorem witness_DecodeOfEncodeIsTheInstruction :
    OpcodeMap.default.wf :=
  OpcodeMap.default_wf

theorem witness_EncodeOfDecodeIsTheBytes :
    decode .default [0x08, 0xFF, 0x01] = .ok (.cpy 0xFF, [0x01]) :=
  rfl

theorem witness_DecoderRejectsExactly :
    [(0x03 : Byte)].length < 2 ∧ (∀ o, OpcodeMap.default o ≠ 0x29) ∧ ¬ (∀ o, OpcodeMap.default o ≠ 0x28) :=
  ⟨by decide, fun o => by cases o <;> decide, fun h => h .bsr rfl⟩

theorem witness_RegisterCodesNameDistinctCells :
    Reg.ofCode 0 = none ∧ Reg.ofCode 8 = none ∧ Reg.ofCode 1 = some .A ∧ Reg.ofCode 7 = some .S :=
  by decide

set_option maxRecDepth 10000 in
theorem witness_StepRunsTheDecodedInstruction :
    (code [0x1E, 0x01]).run = .running ∧ (code [0x1E, 0x01]).pc.comp < (code [0x1E, 0x01]).progLen ∧
    decode .default [memRead (code [0x1E, 0x01]) 0 0, memRead (code [0x1E, 0x01]) 0 1] = .ok (.incr 1, []) ∧
    (∃ s : State, s.run = .running ∧ s.pc.comp < s.progLen ∧ s.pc.addr = 255 ∧
      decode .default [memRead s (s.pc.bank + 1) 0, memRead s (s.pc.bank + 1) 1] = .ok (.incr 1, [])) :=
  ⟨rfl, by decide, rfl, { code [0x1E, 0x01] with pc := ⟨255, 255⟩ }, rfl, by decide, rfl, rfl⟩

theorem witness_SoiAndSorOnlyPrimeTheLatch :
    (Fetching (code [0x01, 0x07]) ∧ fetchedOpcode (code [0x01, 0x07]) = OpcodeMap.default .soi) ∧
    (Fetching (code [0x02, 0x07]) ∧ fetchedOpcode (code [0x02, 0x07]) = OpcodeMap.default .sor) :=
  ⟨⟨⟨rfl, by decide⟩, by decide⟩, ⟨⟨rfl, by decide⟩, by decide⟩⟩

theorem witness_EveryOtherOpcodeLoadsDR1AndRuns :
    (Fetching (code [0x03, 0x07]) ∧ fetchedOpcode (code [0x03, 0x07]) = OpcodeMap.default .addi) ∧
    (Fetching (code [0x00, 0x07]) ∧ fetchedOpcode (code [0x00, 0x07]) = OpcodeMap.default .nop) ∧
    (Fetching (code [0x29, 0x07]) ∧ ∀ o, fetchedOpcode (code [0x29, 0x07]) ≠ OpcodeMap.default o) :=
  ⟨⟨⟨rfl, by decide⟩, by decide⟩, ⟨⟨rfl, by decide⟩, by decide⟩, ⟨⟨rfl, by decide⟩, fun o => by cases o <;> decide⟩⟩

theorem witness_UnknownOpcodeIsCountedOnly :
    Fetching (code [0xFF, 0x07]) ∧ ∀ o, OpcodeMap.default o ≠ fetchedOpcode (code [0xFF, 0x07]) :=
  ⟨⟨rfl, by decide⟩, fun o => by cases o <;> decide⟩

theorem witness_ProgramCounterAfterAStep :
    (∃ t u, exec (.jmpi 9) (beginCycle (code [0x0D, 0x09])) = .next t ∧ t.run = .running ∧ t.jf = true ∧
      stepWith .default (code [0x0D, 0x09]) = .next u) ∧
    (∃ t u, exec (.nop 0) (beginCycle { start with pc := ⟨255, 254⟩ }) = .next t ∧ t.run = .running ∧ t.jf = false ∧
      stepWith .default { start with pc := ⟨255, 254⟩ } = .next u) ∧
    (∃ t u, exec (.nop 0) (beginCycle { start with pc := ⟨3, 255⟩ }) = .next t ∧ t.run = .running ∧ t.jf = false ∧
      stepWith .default { start with pc := ⟨3, 255⟩ } = .next u) :=
  ⟨⟨_, _, rfl, rfl, rfl, rfl⟩, ⟨_, _, rfl, rfl, rfl, rfl⟩, ⟨_, _, rfl, rfl, rfl, rfl⟩⟩

theorem witness_EndOfProgramHalts :
    (({ start with progLen := 0 } : State).run = .running ∧ 0 ≤ start.pc.bank.toNat * 256 + start.pc.addr.toNat) ∧
    (({ start with pc := ⟨0, 4⟩, progLen := 4 } : State).run = .running ∧ 4 ≤ (0 : Byte).toNat * 256 + (4 : Byte).toNat) :=
  by decide

theorem witness_QuitIsSampledOncePerCompletedInstruction :
    (∃ t, stepWith .default { code [0x03, 0x01] with quitSamples := [] } = .next t ∧ t.run = .running) ∧
    (∃ t, stepWith .default { emptyProgram with quitSamples := [] } = .next t ∧ t.run = .halted) :=
  ⟨⟨_, rfl, rfl⟩, ⟨_, rfl, rfl⟩⟩

theorem witness_HaltedIsFinalUntilReset :
    ((haltWith start .quit).run = .halted ∧ (haltWith start .quit).haltReason ≠ .none) ∧
    (State.reset.run = .halted ∧ ∃ t, hostStep (.load (.complete [0x03, 0x01])) State.reset = .next t ∧ t.run = .running) :=
  ⟨by decide, rfl, _, rfl, rfl⟩

/-- A running state with memory, stack and a pending quit bit that meets the invariant. -/
theorem running_inv : Inv { code [0x1A, 0x00] with stack := [(3, 7)], quitSamples := [false, true] } where
  memCanonical := by decide
  stackCanonical := by decide
  deadFlags := by decide
  progLenRange := by decide
  runningReason := fun _ => rfl
  endReached := by decide
  noFault := fun _ => rfl
  faulted := by decide
  awaitingLoad := by decide
  notYetLoaded := by decide

theorem witness_EveryStepKeepsTheInvariant :
    ∃ t, Inv { code [0x1A, 0x00] with stack := [(3, 7)], quitSamples := [false, true] } ∧
    stepWith .default { code [0x1A, 0x00] with stack := [(3, 7)], quitSamples := [false, true] } = .next t ∧
    t.haltReason = .fault :=
  ⟨_, running_inv, rfl, rfl⟩

theorem witness_HostOperationsKeepTheInvariant :
    (∃ t, hostStep (.load (.complete [0x03, 0x01])) State.reset = .next t ∧ t.run = .running) ∧
    (∃ t, hostStep (.load (.ioFailure [0x03])) State.reset = .next t ∧ t.run = .halted) ∧
    (∃ t, Inv { code [0x1A, 0x00] with stack := [(3, 7)], quitSamples := [false, true] } ∧
      hostStep .reset { code [0x1A, 0x00] with stack := [(3, 7)], quitSamples := [false, true] } = .next t) :=
  ⟨⟨_, rfl, rfl⟩, ⟨_, rfl, rfl⟩, ⟨_, running_inv, rfl⟩⟩

theorem witness_EveryReachableStateMeetsTheInvariant :
    ∃ t, Reachable t ∧ t.run = .running :=
  ⟨_, .host (.load (.complete [0x03, 0x01])) .reset rfl, rfl⟩

theorem witness_CanonicalMemoriesThatReadAlikeAreEqual :
    Memory.wf 256 [(3, 7), (255, 1)] ∧ (∀ a, Memory.read [(3, 7), (255, 1)] a = Memory.read [(3, 7), (255, 1)] a) :=
  ⟨by decide, fun _ => rfl⟩

theorem witness_MemoryReadsTheLastWrite :
    (PC.mk 0 0 = if ({ start with pc := ⟨255, 255⟩ } : State).pc.addr = 255 then ⟨255 + 1, 0⟩ else ⟨255, 255⟩) ∧
    (PC.mk 255 254 = if ({ start with pc := ⟨255, 254⟩ } : State).pc.addr = 255 then ⟨255 + 1, 0⟩ else ⟨255, 254⟩) :=
  by decide

theorem witness_InvalidRegisterExactlyAsListed :
    Instr.faultCode (.addr 8) 0 = some 8 ∧ Instr.faultCode (.jner 1) 0 = some 0 ∧ Instr.faultCode (.cpy 0) 9 = some 0 ∧
    Instr.faultCode (.ldi 7) 0 = none ∧ ∃ t, exec (.ldi 7) start = .next t :=
  ⟨by decide, by decide, by decide, by decide, _, rfl⟩

theorem witness_AFaultingCycleStopsWithThePcOfTheFault :
    Fetching { code [0x1E, 0x08] with pc := ⟨255, 255⟩ } ∧
    decodePair .default (fetchedOpcode { code [0x1E, 0x08] with pc := ⟨255, 255⟩ })
      (fetchedOperand { code [0x1E, 0x08] with pc := ⟨255, 255⟩ }) = some (.incr 8) ∧
    Instr.faultCode (.incr 8) 0 = some 8 :=
  ⟨⟨rfl, by decide⟩, by decide, by decide⟩

/-- The hypothesis of the register-form statements: DR2 holds the code of a register, the first, the last, and the
destination itself among them. -/
theorem witness_latch_holds_a_code (q : Reg) : ({ start with dr2 := q.toCode } : State).dr2 = q.toCode := rfl

theorem witness_LoadImmediateAndCopy :
    ({ start with dr2 := 1 } : State).dr2 = Reg.A.toCode ∧ ({ start with dr2 := 7 } : State).dr2 = Reg.S.toCode :=
  by decide

theorem witness_UnconditionalJumpsSetBothPcBytes :
    ({ start with dr2 := 1 } : State).dr2 = Reg.A.toCode ∧ ({ start with dr2 := 7 } : State).dr2 = Reg.S.toCode :=
  by decide

theorem witness_ComparesSetEqualOnBitEquality :
    ({ start with dr2 := 1 } : State).dr2 = Reg.A.toCode ∧ ({ start with dr2 := 7 } : State).dr2 = Reg.S.toCode :=
  by decide

theorem witness_MemoryReadInstructions :
    ({ start with dr2 := 1 } : State).dr2 = Reg.A.toCode ∧ ({ start with dr2 := 7 } : State).dr2 = Reg.S.toCode :=
  by decide

theorem witness_MemoryWriteInstructions :
    ({ start with dr2 := 1 } : State).dr2 = Reg.A.toCode ∧ ({ start with dr2 := 7 } : State).dr2 = Reg.S.toCode :=
  by decide

theorem witness_LogicImmediateBitByBit :
    ({ start with dr2 := 1 } : State).dr2 = Reg.A.toCode ∧ ({ start with dr2 := 7 } : State).dr2 = Reg.S.toCode :=
  by decide

theorem witness_LogicRegisterBitByBit :
    ({ start with dr2 := 1 } : State).dr2 = Reg.A.toCode ∧ ({ start with dr2 := 7 } : State).dr2 = Reg.S.toCode :=
  by decide

theorem witness_ConditionalJumpsImmediate :
    (compareBytes start 1 1).flags.equal = true ∧ start.flags.equal = false :=
  by decide

theorem witness_ConditionalJumpsRegister :
    ((compareBytes { start with dr2 := 7 } 1 1).dr2 = Reg.S.toCode ∧ (compareBytes { start with dr2 := 7 } 1 1).flags.equal = true) ∧
    (({ start with dr2 := 1 } : State).dr2 = Reg.A.toCode ∧ ({ start with dr2 := 1 } : State).flags.equal = false) :=
  by decide

theorem witness_PushRegisterZeroesItsSource :
    Reg.A ≠ .S :=
  by decide

theorem witness_PushThenPop :
    Reg.B ≠ .S ∧ Reg.A ≠ .S ∧ Reg.A ≠ .B :=
  by decide

theorem witness_EqualBelongsToTheComparesAndTheConditionalJumps :
    (∃ t, stepWith .default { code [0x13, 0x01] with dr2 := 0 } = .next t ∧ t.flags.equal ≠ ({ code [0x13, 0x01] with dr2 := 0 } : State).flags.equal) ∧
    ({ start with dr2 := 7 } : State).dr2 = Reg.S.toCode ∧
    (∃ t, Instr.opcode (.cmpi 1) ∉ [Opcode.jei, .jer, .jnei, .jner] ∧ exec (.cmpi 1) start = .next t) :=
  ⟨⟨_, rfl, by decide⟩, by decide, ⟨_, by decide, rfl⟩⟩

theorem witness_DeadFlagsAreNeverWrittenNorRead :
    (∃ t, stepWith .default (code [0x03, 0xFF]) = .next t) ∧ ∃ t, exec (.addi 0xFF) start = .next t :=
  ⟨⟨_, rfl⟩, ⟨_, rfl⟩⟩

theorem witness_OperandLatchWritersAndReaders :
    (∃ t, stepWith .default (code [0x01, 0x09]) = .next t ∧ t.dr2 ≠ (code [0x01, 0x09]).dr2) ∧
    (∃ t, Instr.dr2Role (.addr 1) ≠ .value ∧ Instr.dr2Role (.addr 1) ≠ .code ∧ exec (.addr 1) start = .next t) :=
  ⟨⟨_, rfl, by decide⟩, ⟨_, by decide, by decide, rfl⟩⟩

theorem witness_DR1IsInvisible :
    ∃ t, stepWith .default (code [0x01, 0x09]) = .next t :=
  ⟨_, rfl⟩

theorem witness_InstructionsCannotReadHostStatus :
    ∃ t, exec (.pushr 7) start = .next t ∧ Instr.faultCode (.pushr 7) start.dr2 = none :=
  ⟨_, rfl, by decide⟩

theorem witness_InstructionsDoNotReadThePc :
    (∃ t, start.jf = false ∧ Instr.faultCode (.jmpi 9) start.dr2 = none ∧ exec (.jmpi 9) start = .next t ∧ t.jf = true) ∧
    (∃ t, start.jf = false ∧ Instr.faultCode (.jei 9) start.dr2 = none ∧ exec (.jei 9) start = .next t ∧ t.jf = false) :=
  ⟨⟨_, rfl, by decide, rfl, rfl⟩, ⟨_, rfl, by decide, rfl, rfl⟩⟩

theorem witness_OnlyTheListedInstructionsReachBankedMemory :
    (∃ t, exec (.incb 0) start = .next t ∧ memRead t 0 0 ≠ memRead start 0 0) ∧
    (∃ t, Instr.opcode (.rdp 1) ∉ [Opcode.wrp, .incb, .decb, .mwi, .mwr] ∧ exec (.rdp 1) start = .next t ∧
      ∀ a, memRead { start with mem := [] } (readReg start .BI) a = memRead start (readReg start .BI) a) ∧
    (∃ t, Instr.opcode (.addi 1) ∉ [Opcode.wrp, .incb, .decb, .mwi, .mwr] ∧ Instr.opcode (.addi 1) ∉ [Opcode.rdp, .mri, .mrr] ∧
      exec (.addi 1) start = .next t) :=
  ⟨⟨_, rfl, by decide⟩, ⟨_, by decide, rfl, fun _ => rfl⟩, ⟨_, by decide, by decide, rfl⟩⟩

theorem witness_OnlyPushAndPopReachTheStack :
    (∃ t, exec (.pushi 1) start = .next t ∧ stackRead t 0 ≠ stackRead start 0) ∧
    (∃ t, Instr.opcode (.mri 1) ∉ [Opcode.pushi, .pushr] ∧ Instr.opcode (.mri 1) ≠ .pop ∧ exec (.mri 1) start = .next t) ∧
    (∃ t, Instr.opcode (.pop 0) ∉ [Opcode.pushi, .pushr] ∧ exec (.pop 0) start = .next t ∧
      stackRead { start with stack := [(0, 9)] } (readReg start .S - 1) = stackRead start (readReg start .S - 1)) ∧
    (∃ t, Instr.opcode (.pushr 7) ∈ [Opcode.pushi, .pushr] ∧ exec (.pushr 7) start = .next t ∧
      Instr.faultCode (.pushr 7) start.dr2 = none) :=
  ⟨⟨_, rfl, by decide⟩, ⟨_, by decide, by decide, rfl⟩, ⟨_, by decide, rfl, by decide⟩, ⟨_, by decide, rfl, by decide⟩⟩

theorem witness_ProgramLengthAndUnknownCount :
    (∃ t, stepWith .default (code [0xFF, 0x07]) = .next t ∧ Fetching (code [0xFF, 0x07]) ∧
      ∀ o, OpcodeMap.default o ≠ fetchedOpcode (code [0xFF, 0x07])) ∧
    (∃ t, stepWith .default (code [0x00, 0x07]) = .next t ∧ OpcodeMap.default .nop = fetchedOpcode (code [0x00, 0x07])) ∧
    (∃ t, stepWith .default State.reset = .next t ∧ ¬ Fetching State.reset) :=
  ⟨⟨_, rfl, ⟨rfl, by decide⟩, fun o => by cases o <;> decide⟩, ⟨_, rfl, by decide⟩, ⟨_, rfl, fun h => by cases h.1⟩⟩

theorem witness_PcStaysEvenWithoutJumps :
    ∃ t, (code [0x0D, 0x09]).pc.addr.toNat % 2 = 0 ∧ stepWith .default (code [0x0D, 0x09]) = .next t ∧ t.pc.addr.toNat % 2 = 1 :=
  ⟨_, by decide, rfl, by decide⟩

theorem witness_LoadPlacesTheImage :
    ([] : List Byte).length ≤ 65536 ∧ (List.replicate 65536 (0 : Byte)).length ≤ 65536 ∧
    ([0x03, 0x01] : List Byte)[1]? = some 0x01 ∧ ([0x03, 0x01] : List Byte).length ≤ (0 : Byte).toNat * 256 + (2 : Byte).toNat :=
  ⟨by decide, Nat.le_of_eq List.length_replicate, by decide, by decide⟩

theorem witness_LoadRefusedOrFailed :
    65536 < (List.replicate 65537 (0 : Byte)).length ∧
    (∃ t, load (.complete [0x03, 0x01]) State.reset = .next t) ∧ start.run = .running ∧
    (∃ t, load (.ioFailure []) State.reset = .next t) :=
  ⟨Nat.lt_of_lt_of_eq (Nat.lt_succ_self _) List.length_replicate.symm, ⟨_, rfl⟩, rfl, ⟨_, rfl⟩⟩

end Sys2Proof.Tests
end

section
/-! The host's side of the state and O52. An instruction's routine works on registers, memories, latches, flags and PC;
what only the host reads (00_scope.md R6) passes through it untouched, except where InvalidRegister is raised. -/
namespace Sys2Proof.Machine

/-! ### What only the host reads, and a change of it -/

/-- The part of the state that only the host reads (00_scope.md R6), with the model's two fields of logs 2 and 6. -/
structure HostStatus where
  run : RunState
  haltReason : HaltReason
  fault : FaultRecord
  unk : Nat
  progLen : Nat
  loadAttempted : Bool
  quitSamples : List Bool

/-- The host's part of a state. -/
def State.hostStatus (s : State) : HostStatus :=
  ⟨s.run, s.haltReason, s.fault, s.unk, s.progLen, s.loadAttempted, s.quitSamples⟩

/-- The state with its host's part changed by `f` and everything else kept. -/
def mapHost (f : HostStatus → HostStatus) (s : State) : State :=
  { s with
    run := (f s.hostStatus).run
    haltReason := (f s.hostStatus).haltReason
    fault := (f s.hostStatus).fault
    unk := (f s.hostStatus).unk
    progLen := (f s.hostStatus).progLen
    loadAttempted := (f s.hostStatus).loadAttempted
    quitSamples := (f s.hostStatus).quitSamples }

/-- A change of the host's part that makes no difference to the taking of InvalidRegister: it keeps clear of RUN,
HALT_REASON and FAULT. -/
def CommutesWithRaise (f : HostStatus → HostStatus) : Prop :=
  ∀ (s : State) (c : Byte), raiseInvalidRegister (mapHost f s) c = mapHost f (raiseInvalidRegister s c)

/-- An outcome with `g` applied to its next state. -/
def mapNext (g : State → State) : Host.Outcome State Fault Refusal → Host.Outcome State Fault Refusal
  | .next s => .next (g s)
  | .fault r => .fault r
  | .refused r => .refused r

@[simp] theorem mapNext_next (g : State → State) (s : State) : mapNext g (.next s) = .next (g s) := rfl

/-! ### The two operand forms and the instruction under such a change -/

/-- An instruction raises no fault exactly when both its latches hold what R103 asks. -/
theorem Instr.faultCode_eq_none_iff (i : Instr) (dr2 : Byte) :
    Instr.faultCode i dr2 = none ↔ i.wf = true ∧ i.latchWf dr2 = true := by
  unfold Instr.faultCode
  cases i.wf <;> cases i.latchWf dr2 <;> simp

/-- A one-code routine that commutes with the change does so under `withReg`, if the code is valid or taking the fault
commutes too. -/
theorem withReg_mapHost {f : HostStatus → HostStatus} (s : State) {c : Byte} {g g' : Reg → State}
    (hc : validCode c = true ∨ CommutesWithRaise f) (hg : ∀ r, g' r = mapHost f (g r)) :
    withReg (mapHost f s) c g' = mapNext (mapHost f) (withReg s c g) := by
  rcases code_cases c with ⟨r, rfl⟩ | hbad
  · simp [hg]
  · have hraise : CommutesWithRaise f := hc.resolve_left (by simp [hbad])
    simp [withReg_invalid _ _ _ hbad, hraise s c]

/-- The same for a two-code routine. -/
theorem withRegs_mapHost {f : HostStatus → HostStatus} (s : State) {g g' : Reg → Reg → State}
    (hc : (validCode s.dr1 = true ∧ validCode s.dr2 = true) ∨ CommutesWithRaise f)
    (hg : ∀ r1 r2, g' r1 r2 = mapHost f (g r1 r2)) :
    withRegs (mapHost f s) g' = mapNext (mapHost f) (withRegs s g) := by
  have hdr1 : (mapHost f s).dr1 = s.dr1 := rfl
  unfold withRegs
  rw [hdr1]
  cases h1 : Reg.ofCode s.dr1 with
  | some r1 => exact withReg_mapHost s (hc.imp_left And.right) (hg r1)
  | none =>
    have hbad : validCode s.dr1 = false := by rw [← Reg.ofCode_isSome, h1]; rfl
    have hraise : CommutesWithRaise f := hc.resolve_left (by simp [hbad])
    exact congrArg Host.Outcome.next (hraise s s.dr1)

/-- A jump under a condition commutes with the change, taken or not. -/
theorem jumpIf_mapHost (f : HostStatus → HostStatus) (cond : Bool) (s : State) (b a : Byte) :
    jumpIf cond (mapHost f s) b a = mapHost f (jumpIf cond s b a) := by
  cases cond <;> rfl

/-- An instruction commutes with a change of the host's part, if it raises no fault or taking the fault commutes with
the change: one case per operand form of 30_encoding.md R99. -/
theorem exec_mapHost (f : HostStatus → HostStatus) (i : Instr) (s : State)
    (hc : Instr.faultCode i s.dr2 = none ∨ CommutesWithRaise f) :
    exec i (mapHost f s) = mapNext (mapHost f) (exec i s) := by
  rw [Instr.faultCode_eq_none_iff] at hc
  cases i with
  -- no operand is a register code
  | nop | soi | sor | addi | subi | jmpi | pushi | pop | incb | decb | bsi => rfl
  | jei x | jnei x => exact congrArg Host.Outcome.next (jumpIf_mapHost f _ (loadDR1 s x) _ _)
  -- DR1 holds a code
  | addr x | subr x | ldi x | wrp x | rdp x | lsl x | lsr x | cmpi x | mri x | mwi x | pushr x | incr x | decr x | not x
  | bsr x => exact withReg_mapHost (loadDR1 s x) (hc.imp_left And.left) fun _ => rfl
  -- DR2 holds a code
  | andi x | ori x | xori x => exact withReg_mapHost (loadDR1 s x) (hc.imp_left And.right) fun _ => rfl
  -- both latches hold a code
  | cpy x | jmpr x | cmpr x | mrr x | mwr x | andr x | orr x | xorr x =>
    exact withRegs_mapHost (loadDR1 s x) hc fun _ _ => rfl
  | jer x | jner x => exact withRegs_mapHost (loadDR1 s x) hc fun _ _ => jumpIf_mapHost f _ (loadDR1 s x) _ _

/-- Settles O52: the statement's two updates are changes of the host's part, and the first commutes with the taking of
InvalidRegister. -/
theorem instructionsCannotReadHostStatus : Obligations.InstructionsCannotReadHostStatus := by
  unfold Obligations.InstructionsCannotReadHostStatus
  intro i s t hst
  constructor
  · intro u n l q
    have h := exec_mapHost
      (fun hs => { hs with unk := u, progLen := n, loadAttempted := l, quitSamples := q }) i s (.inr fun _ _ => rfl)
    rw [hst] at h
    exact h
  · intro hnone r why rec
    have h := exec_mapHost (fun hs => { hs with run := r, haltReason := why, fault := rec }) i s (.inl hnone)
    rw [hst] at h
    exact h

end Sys2Proof.Machine
end

section
/-! What an instruction and a step can do, said once: the forms an instruction's next state can take (`Effect`), the
forms a step's next state can take (`StepTo`), and the frames that follow from them. -/
namespace Sys2Proof.Machine

/-! ### The forms of an instruction's next state -/

/-- The six jump instructions. -/
def jumpOpcodes : List Opcode := [.jmpi, .jmpr, .jei, .jer, .jnei, .jner]

/-- Everything an instruction can make of a state: the fault, or one kind of update of the state with DR1 loaded. -/
inductive Effect (i : Instr) (s : State) : State → Prop
  /-- InvalidRegister -/
  | fault {c : Byte} (hc : validCode c = false) : Effect i s (raiseInvalidRegister (loadDR1 s i.operandByte) c)
  /-- the latches, by NOP, SOI and SOR -/
  | latch (hi : i.opcode ∈ [.soi, .sor, .nop]) (x y : Byte) : Effect i s (loadDR2 (loadDR1 s x) y)
  /-- registers; a conditional jump that is not taken is of this form too -/
  | regs (f : Regs) : Effect i s { loadDR1 s i.operandByte with regs := f }
  /-- one byte of bank BI -/
  | mem (hi : i.opcode ∈ [.wrp, .incb, .decb, .mwi, .mwr]) (a v : Byte) :
      Effect i s (memWrite (loadDR1 s i.operandByte) (readReg s .BI) a v)
  /-- the stack cell at S, and registers -/
  | push (hi : i.opcode ∈ [.pushi, .pushr]) (f : Regs) (v : Byte) :
      Effect i s { stackWrite (loadDR1 s i.operandByte) (readReg s .S) v with regs := f }
  /-- a taken jump -/
  | jump (hi : i.opcode ∈ jumpOpcodes) (b a : Byte) : Effect i s (jumpTo (loadDR1 s i.operandByte) b a)
  /-- EQUAL, by the compares -/
  | compare (hi : i.opcode ∈ [.cmpi, .cmpr]) (v w : Byte) :
      Effect i s (compareBytes (loadDR1 s i.operandByte) v w)

/-- A one-code routine ends in the fault or in what the routine makes of a register. -/
theorem Effect.of_withReg {i : Instr} {s t : State} {c : Byte} {f : Reg → State}
    (h : withReg (loadDR1 s i.operandByte) c f = .next t) (hf : ∀ r, Effect i s (f r)) : Effect i s t := by
  rcases withReg_cases (loadDR1 s i.operandByte) c f with ⟨r, -, e⟩ | ⟨hc, e⟩
  · cases e.symm.trans h
    exact hf r
  · cases e.symm.trans h
    exact .fault hc

/-- A two-code routine likewise. -/
theorem Effect.of_withRegs {i : Instr} {s t : State} {f : Reg → Reg → State}
    (h : withRegs (loadDR1 s i.operandByte) f = .next t) (hf : ∀ r q, Effect i s (f r q)) : Effect i s t := by
  rcases withRegs_cases (loadDR1 s i.operandByte) f with ⟨r, q, -, -, e⟩ | ⟨hc, e⟩ | ⟨-, hc, e⟩
  · cases e.symm.trans h
    exact hf r q
  all_goals
    cases e.symm.trans h
    exact .fault hc

/-- A jump under a condition is a taken jump or leaves the state with DR1 loaded. -/
theorem Effect.of_jumpIf {i : Instr} (s : State) (hi : i.opcode ∈ jumpOpcodes) (cond : Bool) (b a : Byte) :
    Effect i s (jumpIf cond (loadDR1 s i.operandByte) b a) := by
  cases cond with
  | true => exact .jump hi b a
  | false => exact .regs s.regs

/-- Every next state of an instruction has one of these forms: one case per kind of update and operand form. -/
theorem exec_effect {i : Instr} {s t : State} (h : exec i s = .next t) : Effect i s t := by
  cases i with
  -- latches
  | nop x => cases h; exact .latch (by simp [Instr.opcode]) 0 0
  | soi x | sor x => cases h; exact .latch (by simp [Instr.opcode]) s.dr1 x
  -- registers
  | addi x | subi x | bsi x | pop x => cases h; exact .regs _
  | addr x | subr x | ldi x | rdp x | lsl x | lsr x | mri x | incr x | decr x | andi x | ori x | xori x | not x
  | bsr x =>
    exact .of_withReg h fun _ => .regs _
  | cpy x | mrr x | andr x | orr x | xorr x => exact .of_withRegs h fun _ _ => .regs _
  -- banked memory
  | incb x | decb x => cases h; exact .mem (by simp [Instr.opcode]) _ _
  | wrp x | mwi x => exact .of_withReg h fun _ => .mem (by simp [Instr.opcode]) _ _
  | mwr x => exact .of_withRegs h fun _ _ => .mem (by simp [Instr.opcode]) _ _
  -- stack
  | pushi x => cases h; exact .push (by simp [Instr.opcode]) _ _
  | pushr x => exact .of_withReg h fun _ => .push (by simp [Instr.opcode]) _ _
  -- jumps
  | jmpi x => cases h; exact .jump (by simp [jumpOpcodes, Instr.opcode]) _ _
  | jmpr x => exact .of_withRegs h fun _ _ => .jump (by simp [jumpOpcodes, Instr.opcode]) _ _
  | jei x | jnei x => cases h; exact .of_jumpIf s (by simp [jumpOpcodes, Instr.opcode]) _ _ _
  | jer x | jner x => exact .of_withRegs h fun _ _ => .of_jumpIf s (by simp [jumpOpcodes, Instr.opcode]) _ _ _
  -- compares
  | cmpi x => exact .of_withReg h fun _ => .compare (by simp [Instr.opcode]) _ _
  | cmpr x => exact .of_withRegs h fun _ _ => .compare (by simp [Instr.opcode]) _ _

/-! ### Frames of an instruction -/

section
variable {i : Instr} {s t : State}

theorem exec_keeps_progLen_unk (h : exec i s = .next t) : t.progLen = s.progLen ∧ t.unk = s.unk := by
  cases exec_effect h <;> exact ⟨rfl, rfl⟩

theorem exec_keeps_deadFlags (h : exec i s = .next t) :
    t.flags.negative = s.flags.negative ∧ t.flags.carry = s.flags.carry ∧ t.flags.overflow = s.flags.overflow := by
  cases exec_effect h <;> exact ⟨rfl, rfl, rfl⟩

theorem exec_keeps_equal_or_compares (h : exec i s = .next t) :
    t.flags.equal = s.flags.equal ∨ i.opcode = .cmpi ∨ i.opcode = .cmpr := by
  cases exec_effect h with
  | compare hi => exact .inr (by simpa using hi)
  | _ => exact .inl rfl

theorem exec_keeps_dr2_or_latches (h : exec i s = .next t) :
    t.dr2 = s.dr2 ∨ i.opcode = .soi ∨ i.opcode = .sor ∨ i.opcode = .nop := by
  cases exec_effect h with
  | latch hi => exact .inr (by simpa using hi)
  | _ => exact .inl rfl

/-- PC and JF are left alone by all but a taken jump. -/
theorem exec_keeps_pc_or_jumps (h : exec i s = .next t) :
    (t.pc = s.pc ∧ t.jf = s.jf) ∨ (i.opcode ∈ jumpOpcodes ∧ t.jf = true) := by
  cases exec_effect h with
  | jump hi => exact .inr ⟨hi, rfl⟩
  | _ => exact .inl ⟨rfl, rfl⟩

end

/-! ### The end of a cycle -/

section
variable (t : State)

@[simp] theorem endCycle_flags : (endCycle t).flags = t.flags := by
  rcases endCycle_cases t with ⟨-, e⟩ | ⟨-, e⟩ <;> simp [e]

@[simp] theorem endCycle_dr2 : (endCycle t).dr2 = t.dr2 := by
  rcases endCycle_cases t with ⟨-, e⟩ | ⟨-, e⟩ <;> simp [e]

@[simp] theorem endCycle_unk : (endCycle t).unk = t.unk := by
  rcases endCycle_cases t with ⟨-, e⟩ | ⟨-, e⟩ <;> simp [e]

@[simp] theorem endCycle_progLen : (endCycle t).progLen = t.progLen := by
  rcases endCycle_cases t with ⟨-, e⟩ | ⟨-, e⟩ <;> simp [e]

/-- The end of a cycle advances PC unless the instruction faulted or jumped. -/
theorem endCycle_pc_cases :
    (endCycle t).pc = t.pc ∨ (t.jf = false ∧ (endCycle t).pc = advancePc t.pc) := by
  rcases endCycle_cases t with ⟨-, e⟩ | ⟨-, e⟩
  · exact .inl (by rw [e])
  · cases hjf : t.jf <;> simp [e, hjf]

end

/-! ### The forms of a step's next state -/

/-- Everything a step can lead to. -/
inductive StepTo (m : OpcodeMap) (s : State) : State → Prop
  /-- no step: the machine is HALTED -/
  | halted (hrun : s.run = .halted) : StepTo m s s
  /-- the end of the program -/
  | ended (hrun : s.run = .running) (hend : s.progLen ≤ s.pc.comp) : StepTo m s (haltWith s .endOfProgram)
  /-- a cycle that runs a known instruction -/
  | ran (hfetch : Fetching s) {i : Instr} {u : State} (hop : m i.opcode = fetchedOpcode s)
      (hdec : decodePair m (fetchedOpcode s) (fetchedOperand s) = some i) (hexec : exec i (beginCycle s) = .next u) :
      StepTo m s (endCycle u)
  /-- a cycle that counts an unknown opcode -/
  | unknown (hfetch : Fetching s) (hop : ∀ o, m o ≠ fetchedOpcode s) :
      StepTo m s (endCycle (unknownOpcode (beginCycle s) (fetchedOperand s)))

/-- An instruction is decoded from its operation's byte. -/
theorem opcode_of_decodePair {m : OpcodeMap} {op opnd : Byte} {i : Instr} (h : decodePair m op opnd = some i) :
    m i.opcode = op := by
  obtain ⟨o, ho, rfl⟩ := Option.map_eq_some_iff.mp h
  simpa using decodeOpcode_some ho

/-- A pair is undecoded exactly when no operation has its opcode byte. -/
theorem decodePair_eq_none_iff {m : OpcodeMap} {op opnd : Byte} : decodePair m op opnd = none ↔ ∀ o, m o ≠ op :=
  Option.map_eq_none_iff.trans decodeOpcode_none

/-- A cycle's outcome is a next state only as the end of what was run. -/
theorem finish_eq_next {o : Host.Outcome State Fault Refusal} {t : State} (h : finish o = .next t) :
    ∃ u, o = .next u ∧ t = endCycle u := by
  cases o with
  | next u => cases h; exact ⟨u, rfl, rfl⟩
  | fault r | refused r => cases h

/-- The cycle of a known opcode, from its decoding and its instruction's next state. -/
theorem stepWith_of_exec {m : OpcodeMap} {s u : State} {i : Instr} (hfetch : Fetching s)
    (hdec : decodePair m (fetchedOpcode s) (fetchedOperand s) = some i) (hexec : exec i (beginCycle s) = .next u) :
    stepWith m s = .next (endCycle u) := by
  have hrun : decodeAndRun m (beginCycle s) = .next u := by
    unfold fetchedOpcode fetchedOperand at hdec
    simpa only [decodeAndRun, hdec] using hexec
  rw [stepWith_running m s hfetch.1 hfetch.2, hrun]
  rfl

/-- The cycle of an unknown opcode. -/
theorem stepWith_of_unassigned {m : OpcodeMap} {s : State} (hfetch : Fetching s) (hop : ∀ o, m o ≠ fetchedOpcode s) :
    stepWith m s = .next (endCycle (unknownOpcode (beginCycle s) (fetchedOperand s))) := by
  have hdec : decodePair m (opcodeAt (beginCycle s)) (operandAt (beginCycle s)) = none := decodePair_eq_none_iff.mpr hop
  have hrun : decodeAndRun m (beginCycle s) = .next (unknownOpcode (beginCycle s) (fetchedOperand s)) := by
    simp only [decodeAndRun, hdec, fetchedOperand]
  rw [stepWith_running m s hfetch.1 hfetch.2, hrun]
  rfl

/-- A step's next state has one of the forms. -/
theorem stepTo_of_stepWith {m : OpcodeMap} {s t : State} (h : stepWith m s = .next t) : StepTo m s t := by
  rcases stepWith_cases m s with ⟨hrun, e⟩ | ⟨hrun, hend, e⟩ | ⟨hrun, hlt, e⟩
  · cases e.symm.trans h
    exact .halted hrun
  · cases e.symm.trans h
    exact .ended hrun hend
  · obtain ⟨u, hu, rfl⟩ := finish_eq_next (e.symm.trans h)
    rcases decodeAndRun_cases m (beginCycle s) with ⟨i, hdec, e'⟩ | ⟨hdec, e'⟩
    · exact .ran ⟨hrun, hlt⟩ (opcode_of_decodePair hdec) hdec (e'.symm.trans hu)
    · cases e'.symm.trans hu
      exact .unknown ⟨hrun, hlt⟩ (decodePair_eq_none_iff.mp hdec)

end Sys2Proof.Machine
end

section
/-! The invariant: O16, O17 and O19. Inside a cycle the machine is RUNNING, and Inv says less there (`RunningInv`); a
halt, by END, QUIT or FAULT, leads from a state that meets `RunningInv` to one that meets Inv. -/
namespace Sys2Proof.Machine

/-- What Inv says of a RUNNING machine. -/
structure RunningInv (s : State) : Prop where
  memCanonical : Memory.wf Config.memSize s.mem
  stackCanonical : Memory.wf Config.stackSize s.stack
  deadFlags : s.flags.negative = false ∧ s.flags.carry = false ∧ s.flags.overflow = false
  progLenRange : s.progLen ≤ Config.memSize
  running : s.run = .running
  reason : s.haltReason = .none
  noFault : s.fault = ⟨.none, 0, 0, 0⟩
  loaded : s.loadAttempted = true

/-- In a RUNNING machine a load was performed, as reset leaves it HALTED. -/
theorem Inv.loaded_of_running {s : State} (h : Inv s) (hrun : s.run = .running) : s.loadAttempted = true := by
  cases hload : s.loadAttempted with
  | true => rfl
  | false =>
    rw [h.notYetLoaded hload] at hrun
    cases hrun

theorem Inv.runningInv {s : State} (h : Inv s) (hrun : s.run = .running) : RunningInv s :=
  { h with
    running := hrun
    reason := h.runningReason hrun
    noFault := h.noFault (by simp [h.runningReason hrun])
    loaded := h.loaded_of_running hrun }

namespace RunningInv
variable {s : State}

theorem inv (h : RunningInv s) : Inv s :=
  { h with
    runningReason := fun _ => h.reason
    endReached := by simp [h.reason]
    noFault := fun _ => h.noFault
    faulted := by simp [h.reason]
    awaitingLoad := by simp [h.running]
    notYetLoaded := by simp [h.loaded] }

/-- A halt without a fault keeps the invariant; END needs the end of the program. -/
theorem inv_haltWith (h : RunningInv s) {why : HaltReason} (hnone : why ≠ .none) (hfault : why ≠ .fault)
    (hend : why = .endOfProgram → s.progLen ≤ s.pc.comp) : Inv (haltWith s why) :=
  { h with
    runningReason := by simp
    endReached := hend
    noFault := fun _ => h.noFault
    faulted := by simp [hfault]
    awaitingLoad := by simp [hnone]
    notYetLoaded := by simp [h.loaded] }

/-- So does the taking of InvalidRegister. -/
theorem inv_raiseInvalidRegister (h : RunningInv s) {c : Byte} (hc : validCode c = false) :
    Inv (raiseInvalidRegister s c) :=
  { h with
    runningReason := by simp
    endReached := by simp
    noFault := by simp
    faulted := fun _ => ⟨rfl, hc, rfl, rfl⟩
    awaitingLoad := by simp
    notYetLoaded := by simp [h.loaded] }

theorem beginCycle (h : RunningInv s) : RunningInv (beginCycle s) := { h with }

theorem loadDR1 (h : RunningInv s) (x : Byte) : RunningInv (loadDR1 s x) := { h with }

theorem unknownOpcode (h : RunningInv s) (x : Byte) : RunningInv (unknownOpcode s x) := { h with }

theorem advance (h : RunningInv s) : RunningInv (advance s) := by
  unfold Machine.advance
  split
  · exact h
  · exact { h with }

/-- The yield point keeps the invariant, whether the host quits or not. -/
theorem inv_yieldPoint (h : RunningInv s) : Inv (yieldPoint s) := by
  rcases yieldPoint_cases s with ⟨-, e⟩ | ⟨rest, -, e⟩ | ⟨rest, -, e⟩ <;> rw [e]
  · exact h.inv
  · have h' : RunningInv { s with quitSamples := rest } := { h with }
    exact h'.inv_haltWith (by simp) (by simp) (by simp)
  · have h' : RunningInv { s with quitSamples := rest } := { h with }
    exact h'.inv

theorem inv_endCycle (h : RunningInv s) : Inv (endCycle s) := by
  rcases endCycle_cases s with ⟨-, e⟩ | ⟨-, e⟩ <;> rw [e]
  · exact h.inv
  · exact h.advance.inv_yieldPoint

/-- After an instruction the machine is RUNNING or has faulted, and keeps the invariant: one case per kind of update. -/
theorem running_or_halted_of_exec (h : RunningInv s) {i : Instr} {t : State} (he : exec i s = .next t) :
    RunningInv t ∨ (t.run = .halted ∧ Inv t) := by
  cases exec_effect he with
  | fault hc => exact .inr ⟨rfl, (h.loadDR1 _).inv_raiseInvalidRegister hc⟩
  | latch | regs | jump => exact .inl { h with }
  | compare => exact .inl { h with deadFlags := h.deadFlags }
  | mem _ a v => exact .inl { h with memCanonical := Memory.wf_write v h.memCanonical (cellKey_lt _ _) }
  | push _ f v => exact .inl { h with stackCanonical := Memory.wf_write v h.stackCanonical (readReg s .S).isLt }

end RunningInv

/-! ### Steps -/

/-- Settles O17, by the forms of a step's next state. -/
theorem everyStepKeepsTheInvariant : Obligations.EveryStepKeepsTheInvariant := by
  intro m s t h hstep
  cases stepTo_of_stepWith hstep with
  | halted => exact h
  | ended hrun hend => exact (h.runningInv hrun).inv_haltWith (by simp) (by simp) fun _ => hend
  | ran hfetch _ _ hexec =>
    rcases (h.runningInv hfetch.1).beginCycle.running_or_halted_of_exec hexec with hu | ⟨hhalt, hu⟩
    · exact hu.inv_endCycle
    · simpa [endCycle, hhalt] using hu
  | unknown hfetch => exact ((h.runningInv hfetch.1).beginCycle.unknownOpcode _).inv_endCycle

/-! ### The host's operations -/

theorem inv_hostReset (s : State) : Inv (hostReset s) where
  memCanonical := Memory.wf_nil _
  stackCanonical := Memory.wf_nil _
  deadFlags := ⟨rfl, rfl, rfl⟩
  progLenRange := Nat.zero_le _
  runningReason := fun _ => rfl
  endReached := fun h => by cases h
  noFault := fun _ => rfl
  faulted := fun h => by cases h
  awaitingLoad := fun _ _ => rfl
  notYetLoaded := fun _ => rfl

theorem inv_presentQuit {s : State} (h : Inv s) (bits : List Bool) : Inv (presentQuit bits s) :=
  { h with notYetLoaded := fun hload =>
      show presentQuit bits s = presentQuit bits (hostReset s) from congrArg _ (h.notYetLoaded hload) }

theorem justReset_iff (s : State) : justReset s = true ↔ s = hostReset s := decide_eq_true_iff

/-- A load that is not refused keeps the invariant. -/
theorem inv_load {src : ImageSource} {s t : State} (hload : load src s = .next t) : Inv t := by
  rcases load_cases src s with ⟨image, -, hj, hlen, e⟩ | ⟨part, -, hj, -, e⟩ | ⟨r, e⟩
  all_goals cases e.symm.trans hload
  · obtain ⟨bits, rfl⟩ : ∃ bits, s = presentQuit bits State.reset := ⟨_, (justReset_iff s).mp hj⟩
    exact RunningInv.inv
      { memCanonical := writeImage_wf (Memory.wf_nil _)
        stackCanonical := Memory.wf_nil _
        deadFlags := ⟨rfl, rfl, rfl⟩
        progLenRange := hlen
        running := rfl
        reason := rfl
        noFault := rfl
        loaded := rfl }
  · obtain ⟨bits, rfl⟩ : ∃ bits, s = presentQuit bits State.reset := ⟨_, (justReset_iff s).mp hj⟩
    exact
      { inv_hostReset (presentQuit bits State.reset) with
        memCanonical := writeImage_wf (Memory.wf_nil _)
        notYetLoaded := by simp }

/-- Whatever the host does that the machine accepts keeps the invariant. -/
theorem inv_hostStep {o : HostOp} {s t : State} (h : Inv s) (hstep : hostStep o s = .next t) : Inv t := by
  cases o with
  | reset => cases hstep; exact inv_hostReset s
  | load src => exact inv_load hstep
  | presentQuit bits => cases hstep; exact inv_presentQuit h bits

/-- Settles O16: the reset state is what the host's reset makes of it. -/
theorem resetMeetsTheInvariant : Obligations.ResetMeetsTheInvariant :=
  inv_hostReset State.reset

/-- Settles O19, by induction on how the state is reached. -/
theorem everyReachableStateMeetsTheInvariant : Obligations.EveryReachableStateMeetsTheInvariant := by
  intro s hs
  induction hs with
  | reset => exact resetMeetsTheInvariant
  | step _ hstep ih => exact everyStepKeepsTheInvariant _ _ _ ih hstep
  | host o _ hstep ih => exact inv_hostStep ih hstep

end Sys2Proof.Machine
end

section
/-! What a step writes and what HALTED means: O5, O13, O56, O57, and the writers' halves of O48 to O50. -/
namespace Sys2Proof.Machine

/-! ### Register codes -/

theorem Reg.ofCode_eq_none_iff (c : Byte) : Reg.ofCode c = none ↔ c.toNat = 0 ∨ 7 < c.toNat := by
  have hvalid : Reg.ofCode c = none ↔ validCode c = false := by
    rw [← Reg.ofCode_isSome, Option.isSome_eq_false_iff, Option.isNone_iff_eq_none]
  simp only [hvalid, validCode, Bool.and_eq_false_iff, decide_eq_false_iff_not]
  omega

/-- Settles O5: the code table is the model's own `Reg.ofCode`, and the write is read back by `readReg_writeReg`. -/
theorem registerCodesNameDistinctCells : Obligations.RegisterCodesNameDistinctCells :=
  ⟨Reg.ofCode_eq_none_iff, by decide, Reg.ofCode_toCode, readReg_writeReg⟩

/-! ### HALTED -/

/-- A run of one step more takes that step first. -/
theorem run_succ_of_step {M : Host.Core} {s s' : M.State} (h : M.step s = .next s') (n : Nat) :
    M.run (n + 1) s = M.run n s' := by
  rw [Host.Core.run, h]

/-- Any number of steps leaves a HALTED machine in its state. -/
theorem run_halted {s : State} (hrun : s.run = .halted) (n : Nat) : Sys2Proof.core.run n s = .next s := by
  induction n with
  | zero => rfl
  | succ n ih => exact (run_succ_of_step (M := Sys2Proof.core) (stepWith_halted .default s hrun) n).trans ih

/-- A load is refused unless the machine is as reset leaves it. -/
theorem load_refused {s : State} (hj : justReset s = false) (src : ImageSource) :
    load src s = .refused .loadNotAfterReset := by
  simp [load, hj]

/-- The one host operation that starts a HALTED machine. -/
theorem complete_load_of_hostStep_running {o : HostOp} {s t : State} (hs : s.run = .halted)
    (hstep : hostStep o s = .next t) (ht : t.run = .running) :
    ∃ image, o = .load (.complete image) ∧ s = hostReset s := by
  cases o with
  | reset => cases hstep; cases ht
  | presentQuit bits => cases hstep; cases hs.symm.trans ht
  | load src =>
    rcases load_cases src s with ⟨image, rfl, hj, -, -⟩ | ⟨part, -, -, -, e⟩ | ⟨r, e⟩
    · exact ⟨image, rfl, (justReset_iff s).mp hj⟩
    · cases e.symm.trans hstep; cases hs.symm.trans ht
    · cases e.symm.trans hstep

/-- Settles O13, from what a step and each host operation make of a HALTED machine. -/
theorem haltedIsFinalUntilReset : Obligations.HaltedIsFinalUntilReset := by
  intro s hs
  refine ⟨run_halted hs, fun hwhy src => load_refused ?_ src, fun o t => complete_load_of_hostStep_running hs,
    fun bits => rfl⟩
  exact Bool.eq_false_iff.mpr fun hj => hwhy (congrArg State.haltReason ((justReset_iff s).mp hj))

/-! ### PROG_LEN and UNK -/

/-- Settles O56: no instruction writes PROG_LEN or UNK, so that only the count of an unknown opcode is left. -/
theorem programLengthAndUnknownCount : Obligations.ProgramLengthAndUnknownCount := by
  intro m s t hstep
  cases stepTo_of_stepWith hstep with
  | halted hrun =>
    exact ⟨rfl, fun hfetch => absurd (hrun.symm.trans hfetch.1) (by simp), fun _ _ => rfl, fun _ => rfl⟩
  | ended _ hend =>
    exact ⟨rfl, fun hfetch => absurd hfetch.2 (Nat.not_lt.mpr hend), fun _ _ => rfl, fun _ => rfl⟩
  | @ran hfetch i u hop hdec hexec =>
    obtain ⟨hlen, hunk⟩ := exec_keeps_progLen_unk hexec
    exact ⟨by simp [hlen], fun _ hno => absurd hop (hno _), fun _ _ => by simp [hunk], fun hnf => absurd hfetch hnf⟩
  | unknown hfetch hop =>
    exact ⟨by simp, fun _ _ => by simp, fun o ho => absurd ho (hop o), fun hnf => absurd hfetch hnf⟩

/-! ### The parity of PC.addr -/

theorem even_addr_fetchPc {pc : PC} (h : pc.addr.toNat % 2 = 0) : (fetchPc pc).addr.toNat % 2 = 0 := by
  unfold fetchPc nextBank
  split
  · rfl
  · exact h

theorem even_addr_advancePc {pc : PC} (h : pc.addr.toNat % 2 = 0) : (advancePc pc).addr.toNat % 2 = 0 := by
  unfold advancePc nextBank
  split
  · rfl
  · have htwo : (2 : Byte).toNat = 2 := rfl
    rw [BitVec.toNat_add, htwo]
    omega

/-- The end of a cycle keeps an even address even. -/
theorem even_addr_endCycle {t : State} (h : t.pc.addr.toNat % 2 = 0) : (endCycle t).pc.addr.toNat % 2 = 0 := by
  rcases endCycle_pc_cases t with e | ⟨-, e⟩ <;> rw [e]
  · exact h
  · exact even_addr_advancePc h

/-- Settles O57: but for a taken jump, PC goes through the roll-over and the advance only, and both keep it even. -/
theorem pcStaysEvenWithoutJumps : Obligations.PcStaysEvenWithoutJumps := by
  intro m s t heven hstep hodd
  have hbegin : (beginCycle s).pc.addr.toNat % 2 = 0 := even_addr_fetchPc heven
  cases stepTo_of_stepWith hstep with
  | halted | ended => simp [heven] at hodd
  | unknown => simp [even_addr_endCycle (t := unknownOpcode (beginCycle s) _) hbegin] at hodd
  | @ran _ i u _ hdec hexec =>
    rcases exec_keeps_pc_or_jumps hexec with ⟨hpc, -⟩ | ⟨hjump, hjf⟩
    · have hu : u.pc.addr.toNat % 2 = 0 := hpc ▸ hbegin
      simp [even_addr_endCycle hu] at hodd
    · refine ⟨i, u, hdec, hjump, hexec, hjf, ?_⟩
      rcases endCycle_pc_cases u with e | ⟨hnot, -⟩
      · rwa [e] at hodd
      · simp [hjf] at hnot

/-! ### The writers of EQUAL, the dead flags and DR2 -/

/-- A step leaves the flags and DR2 alone, or they are as the fetched instruction left them. -/
theorem step_keeps_flags_dr2_or_ran {m : OpcodeMap} {s t : State} (hstep : stepWith m s = .next t) :
    (t.flags = s.flags ∧ t.dr2 = s.dr2) ∨
    ∃ i u, Fetching s ∧ m i.opcode = fetchedOpcode s ∧ exec i (beginCycle s) = .next u ∧
      t.flags = u.flags ∧ t.dr2 = u.dr2 := by
  cases stepTo_of_stepWith hstep with
  | halted | ended => exact .inl ⟨rfl, rfl⟩
  | unknown => exact .inl (by simp)
  | ran hfetch hop _ hexec => exact .inr ⟨_, _, hfetch, hop, hexec, by simp⟩

theorem step_writes_equal {m : OpcodeMap} {s t : State} (hstep : stepWith m s = .next t)
    (hne : t.flags.equal ≠ s.flags.equal) :
    Fetching s ∧ (fetchedOpcode s = m .cmpi ∨ fetchedOpcode s = m .cmpr) := by
  rcases step_keeps_flags_dr2_or_ran hstep with ⟨e, -⟩ | ⟨i, u, hfetch, hop, hexec, e, -⟩
  · exact absurd (by rw [e]) hne
  · rw [e] at hne
    have hi := (exec_keeps_equal_or_compares hexec).resolve_left hne
    exact ⟨hfetch, hop ▸ hi.imp (congrArg m) (congrArg m)⟩

theorem step_keeps_deadFlags {m : OpcodeMap} {s t : State} (hstep : stepWith m s = .next t) :
    t.flags.negative = s.flags.negative ∧ t.flags.carry = s.flags.carry ∧ t.flags.overflow = s.flags.overflow := by
  rcases step_keeps_flags_dr2_or_ran hstep with ⟨e, -⟩ | ⟨i, u, -, -, hexec, e, -⟩ <;> rw [e]
  · exact ⟨rfl, rfl, rfl⟩
  · simpa using exec_keeps_deadFlags hexec

theorem step_writes_dr2 {m : OpcodeMap} {s t : State} (hstep : stepWith m s = .next t) (hne : t.dr2 ≠ s.dr2) :
    Fetching s ∧ (fetchedOpcode s = m .soi ∨ fetchedOpcode s = m .sor ∨ fetchedOpcode s = m .nop) := by
  rcases step_keeps_flags_dr2_or_ran hstep with ⟨-, e⟩ | ⟨i, u, hfetch, hop, hexec, -, e⟩
  · exact absurd e hne
  · rw [e] at hne
    have hi := (exec_keeps_dr2_or_latches hexec).resolve_left hne
    exact ⟨hfetch, hop ▸ hi.imp (congrArg m) (.imp (congrArg m) (congrArg m))⟩

end Sys2Proof.Machine
end

section
/-! What an instruction does not read: O48 to O51 and O53. A part of the state is not read when states that agree on all
but that part still do after the instruction (`exec_rel`). -/
namespace Sys2Proof.Machine

/-! ### Relations that the operations of an instruction keep -/

/-- Related states hold the same registers and memories, and every operation of an instruction but the taking of
InvalidRegister keeps them related. -/
structure KeptByOps (R : State → State → Prop) : Prop where
  reads : ∀ {s s'}, R s s' → s'.regs = s.regs ∧ s'.mem = s.mem ∧ s'.stack = s.stack
  writeReg : ∀ {s s'} r v, R s s' → R (writeReg s r v) (writeReg s' r v)
  memWrite : ∀ {s s'} b a v, R s s' → R (memWrite s b a v) (memWrite s' b a v)
  stackWrite : ∀ {s s'} o v, R s s' → R (stackWrite s o v) (stackWrite s' o v)
  loadDR1 : ∀ {s s'} v, R s s' → R (loadDR1 s v) (loadDR1 s' v)
  loadDR2 : ∀ {s s'} v, R s s' → R (loadDR2 s v) (loadDR2 s' v)
  compareBytes : ∀ {s s'} v w, R s s' → R (compareBytes s v w) (compareBytes s' v w)
  jumpTo : ∀ {s s'} b a, R s s' → R (jumpTo s b a) (jumpTo s' b a)

/-- The taking of InvalidRegister keeps the relation. -/
def KeptByRaise (R : State → State → Prop) : Prop :=
  ∀ (s s' : State) (c : Byte), R s s' → R (raiseInvalidRegister s c) (raiseInvalidRegister s' c)

/-- Two outcomes are related next states. -/
def RelNext (R : State → State → Prop) (o o' : Host.Outcome State Fault Refusal) : Prop :=
  ∃ t t', o = .next t ∧ o' = .next t' ∧ R t t'

section
variable {R : State → State → Prop} {s s' : State}

theorem RelNext.of_rel {t t' : State} (h : R t t') : RelNext R (.next t) (.next t') := ⟨t, t', rfl, rfl, h⟩

theorem RelNext.exists_of_next {o o' : Host.Outcome State Fault Refusal} {t : State} (h : RelNext R o o')
    (ho : o = .next t) : ∃ t', o' = .next t' ∧ R t t' := by
  obtain ⟨u, t', hu, ht', hR⟩ := h
  cases hu.symm.trans ho
  exact ⟨t', ht', hR⟩

theorem withReg_rel {c : Byte} {f f' : Reg → State} (hc : validCode c = true ∨ KeptByRaise R) (h : R s s')
    (hf : ∀ r, R (f r) (f' r)) : RelNext R (withReg s c f) (withReg s' c f') := by
  rcases code_cases c with ⟨r, rfl⟩ | hbad
  · simpa using RelNext.of_rel (hf r)
  · have hraise : KeptByRaise R := hc.resolve_left (by simp [hbad])
    simpa [withReg_invalid _ _ _ hbad] using RelNext.of_rel (hraise s s' c h)

theorem withRegs_rel {f f' : Reg → Reg → State}
    (hc : (validCode s.dr1 = true ∧ validCode s.dr2 = true) ∨ KeptByRaise R)
    (hdr1 : s'.dr1 = s.dr1) (hdr2 : s'.dr2 = s.dr2) (h : R s s') (hf : ∀ r q, R (f r q) (f' r q)) :
    RelNext R (withRegs s f) (withRegs s' f') := by
  unfold withRegs
  rw [hdr1, hdr2]
  cases hr : Reg.ofCode s.dr1 with
  | some r => exact withReg_rel (hc.imp_left And.right) h (hf r)
  | none =>
    have hbad : validCode s.dr1 = false := by rw [← Reg.ofCode_isSome, hr]; rfl
    have hraise : KeptByRaise R := hc.resolve_left (by simp [hbad])
    exact RelNext.of_rel (hraise s s' s.dr1 h)

theorem KeptByOps.jumpIf (hR : KeptByOps R) (h : R s s') (cond : Bool) (b a : Byte) :
    R (jumpIf cond s b a) (jumpIf cond s' b a) := by
  cases cond with
  | true => exact hR.jumpTo b a h
  | false => exact h

/-- An instruction keeps such a relation, if the states agree on DR2 where it reads DR2, on EQUAL where it is a
conditional jump, and the instruction raises no fault or the fault keeps the relation. One case per kind of update and
operand form. -/
theorem exec_rel (hR : KeptByOps R) (i : Instr) (h : R s s')
    (hraise : Instr.faultCode i s.dr2 = none ∨ KeptByRaise R)
    (hdr2 : i.dr2Role = .value ∨ i.dr2Role = .code → s'.dr2 = s.dr2)
    (hequal : i.opcode ∈ [.jei, .jer, .jnei, .jner] → s'.flags.equal = s.flags.equal) :
    RelNext R (exec i s) (exec i s') := by
  obtain ⟨hregs, hmem, hstack⟩ := hR.reads h
  rw [Instr.faultCode_eq_none_iff] at hraise
  -- the parts that the states share become the same terms, so that what the instructions read is the same by definition
  obtain ⟨_, _, ⟨_, _, _, _⟩, _, _, _, _, _, _, _, _, _, _, _, _⟩ := s'
  dsimp only at hregs hmem hstack hdr2 hequal
  subst hregs hmem hstack
  have hx := fun x => hR.loadDR1 x h
  cases i with
  -- latches
  | nop x => exact .of_rel (hR.loadDR2 0 (hR.loadDR1 0 (hx x)))
  | soi x | sor x => exact .of_rel (hR.loadDR2 x h)
  -- registers, DR2 not read
  | addi x | subi x | bsi x => exact .of_rel (hR.writeReg _ _ (hx x))
  | pop x => exact .of_rel (hR.writeReg _ _ (hR.writeReg _ _ (hx x)))
  | addr x | subr x | rdp x | lsl x | lsr x | incr x | decr x | not x | bsr x =>
    exact withReg_rel (hraise.imp_left And.left) (hx x) fun _ => hR.writeReg _ _ (hx x)
  -- registers, DR2 read
  | ldi x | mri x =>
    cases hdr2 (by simp [Instr.dr2Role])
    exact withReg_rel (hraise.imp_left And.left) (hx x) fun _ => hR.writeReg _ _ (hx x)
  | andi x | ori x | xori x =>
    cases hdr2 (by simp [Instr.dr2Role])
    exact withReg_rel (hraise.imp_left And.right) (hx x) fun _ => hR.writeReg _ _ (hx x)
  | cpy x | mrr x | andr x | orr x | xorr x =>
    exact withRegs_rel hraise rfl (hdr2 (by simp [Instr.dr2Role])) (hx x) fun _ _ => hR.writeReg _ _ (hx x)
  -- banked memory
  | incb x | decb x => exact .of_rel (hR.memWrite _ _ _ (hx x))
  | wrp x => exact withReg_rel (hraise.imp_left And.left) (hx x) fun _ => hR.memWrite _ _ _ (hx x)
  | mwi x =>
    cases hdr2 (by simp [Instr.dr2Role])
    exact withReg_rel (hraise.imp_left And.left) (hx x) fun _ => hR.memWrite _ _ _ (hx x)
  | mwr x => exact withRegs_rel hraise rfl (hdr2 (by simp [Instr.dr2Role])) (hx x) fun _ _ => hR.memWrite _ _ _ (hx x)
  -- stack
  | pushi x => exact .of_rel (hR.writeReg _ _ (hR.stackWrite _ _ (hx x)))
  | pushr x =>
    exact withReg_rel (hraise.imp_left And.left) (hx x) fun _ =>
      hR.writeReg _ _ (hR.writeReg _ _ (hR.stackWrite _ _ (hx x)))
  -- jumps
  | jmpi x =>
    cases hdr2 (by simp [Instr.dr2Role])
    exact .of_rel (hR.jumpTo _ _ (hx x))
  | jmpr x => exact withRegs_rel hraise rfl (hdr2 (by simp [Instr.dr2Role])) (hx x) fun _ _ => hR.jumpTo _ _ (hx x)
  | jei x | jnei x =>
    cases hdr2 (by simp [Instr.dr2Role])
    cases hequal (by simp [Instr.opcode])
    exact .of_rel (hR.jumpIf (hx x) _ _ _)
  | jer x | jner x =>
    cases hequal (by simp [Instr.opcode])
    exact withRegs_rel hraise rfl (hdr2 (by simp [Instr.dr2Role])) (hx x) fun _ _ => hR.jumpIf (hx x) _ _ _
  -- compares
  | cmpi x =>
    cases hdr2 (by simp [Instr.dr2Role])
    exact withReg_rel (hraise.imp_left And.left) (hx x) fun _ => hR.compareBytes _ _ (hx x)
  | cmpr x =>
    exact withRegs_rel hraise rfl (hdr2 (by simp [Instr.dr2Role])) (hx x) fun _ _ => hR.compareBytes _ _ (hx x)

end

/-! ### EQUAL, the dead flags, DR2 and PC as such parts of the state -/

/-- The states agree on all but EQUAL. -/
def AgreeButEqual (s s' : State) : Prop := ∃ e, s' = { s with flags := { s.flags with equal := e } }

theorem agreeButEqual_kept : KeptByOps AgreeButEqual where
  reads := by rintro _ _ ⟨e, rfl⟩; exact ⟨rfl, rfl, rfl⟩
  writeReg := by rintro _ _ _ _ ⟨e, rfl⟩; exact ⟨e, rfl⟩
  memWrite := by rintro _ _ _ _ _ ⟨e, rfl⟩; exact ⟨e, rfl⟩
  stackWrite := by rintro _ _ _ _ ⟨e, rfl⟩; exact ⟨e, rfl⟩
  loadDR1 := by rintro _ _ _ ⟨e, rfl⟩; exact ⟨e, rfl⟩
  loadDR2 := by rintro _ _ _ ⟨e, rfl⟩; exact ⟨e, rfl⟩
  compareBytes := by rintro _ _ v w ⟨e, rfl⟩; exact ⟨bitEqual v w, rfl⟩
  jumpTo := by rintro _ _ _ _ ⟨e, rfl⟩; exact ⟨e, rfl⟩

/-- The states agree on all but the dead flags, which the second one holds as given. -/
def AgreeButDead (n c v : Bool) (s s' : State) : Prop := s' = { s with flags := ⟨n, c, s.flags.equal, v⟩ }

theorem agreeButDead_kept (n c v : Bool) : KeptByOps (AgreeButDead n c v) where
  reads := by rintro _ _ rfl; exact ⟨rfl, rfl, rfl⟩
  writeReg := by rintro _ _ _ _ rfl; rfl
  memWrite := by rintro _ _ _ _ _ rfl; rfl
  stackWrite := by rintro _ _ _ _ rfl; rfl
  loadDR1 := by rintro _ _ _ rfl; rfl
  loadDR2 := by rintro _ _ _ rfl; rfl
  compareBytes := by rintro _ _ _ _ rfl; rfl
  jumpTo := by rintro _ _ _ _ rfl; rfl

/-- The states agree on all but DR2. -/
def AgreeButDR2 (s s' : State) : Prop := ∃ x, s' = { s with dr2 := x }

theorem agreeButDR2_kept : KeptByOps AgreeButDR2 where
  reads := by rintro _ _ ⟨x, rfl⟩; exact ⟨rfl, rfl, rfl⟩
  writeReg := by rintro _ _ _ _ ⟨x, rfl⟩; exact ⟨x, rfl⟩
  memWrite := by rintro _ _ _ _ _ ⟨x, rfl⟩; exact ⟨x, rfl⟩
  stackWrite := by rintro _ _ _ _ ⟨x, rfl⟩; exact ⟨x, rfl⟩
  loadDR1 := by rintro _ _ _ ⟨x, rfl⟩; exact ⟨x, rfl⟩
  loadDR2 := by rintro _ _ v ⟨x, rfl⟩; exact ⟨v, rfl⟩
  compareBytes := by rintro _ _ _ _ ⟨x, rfl⟩; exact ⟨x, rfl⟩
  jumpTo := by rintro _ _ _ _ ⟨x, rfl⟩; exact ⟨x, rfl⟩

/-- The states agree on all but PC, and on PC too once a jump is taken; until then the second one is at `p`. -/
def AgreeButPc (p : PC) (s s' : State) : Prop := s' = { s with pc := if s.jf then s.pc else p }

theorem agreeButPc_kept (p : PC) : KeptByOps (AgreeButPc p) where
  reads := by rintro _ _ rfl; exact ⟨rfl, rfl, rfl⟩
  writeReg := by rintro _ _ _ _ rfl; rfl
  memWrite := by rintro _ _ _ _ _ rfl; rfl
  stackWrite := by rintro _ _ _ _ rfl; rfl
  loadDR1 := by rintro _ _ _ rfl; rfl
  loadDR2 := by rintro _ _ _ rfl; rfl
  compareBytes := by rintro _ _ _ _ rfl; rfl
  jumpTo := by rintro _ _ _ _ rfl; rfl

/-! ### The statements -/

theorem exec_cmpi_equal (r : Reg) (s : State) :
    ∃ t, exec (.cmpi r.toCode) s = .next t ∧ t.flags.equal = decide (readReg s r = s.dr2) :=
  ⟨_, withReg_toCode _ _ _, rfl⟩

theorem exec_cmpr_equal {r q : Reg} {s : State} (hq : s.dr2 = q.toCode) :
    ∃ t, exec (.cmpr r.toCode) s = .next t ∧ t.flags.equal = decide (readReg s r = readReg s q) :=
  ⟨_, withRegs_valid _ _ _ _ rfl hq, rfl⟩

/-- Settles O48: the writers by `step_writes_equal`, the readers by the relation that does not fix EQUAL. -/
theorem equalBelongsToTheComparesAndTheConditionalJumps :
    Obligations.EqualBelongsToTheComparesAndTheConditionalJumps := by
  refine ⟨fun m s t => step_writes_equal, exec_cmpi_equal, fun r q s => exec_cmpr_equal, ?_⟩
  intro i s t e hi hexec
  have hraise : KeptByRaise AgreeButEqual := by rintro _ _ _ ⟨e, rfl⟩; exact ⟨e, rfl⟩
  obtain ⟨_, ht', e', rfl⟩ := (exec_rel agreeButEqual_kept i (s := s) ⟨e, rfl⟩ (.inr hraise) (fun _ => rfl)
    (fun hjump => absurd hjump hi)).exists_of_next hexec
  exact ⟨e', ht'⟩

/-- Settles O49, by the relation that fixes the three dead flags of the second state. -/
theorem deadFlagsAreNeverWrittenNorRead : Obligations.DeadFlagsAreNeverWrittenNorRead := by
  refine ⟨fun m s t => step_keeps_deadFlags, ?_⟩
  intro i s t n c v hexec
  have hraise : KeptByRaise (AgreeButDead n c v) := by rintro _ _ _ rfl; rfl
  obtain ⟨_, ht', rfl⟩ := (exec_rel (agreeButDead_kept n c v) i (s := s) rfl (.inr hraise) (fun _ => rfl)
    (fun _ => rfl)).exists_of_next hexec
  exact ht'

/-- Settles O50: the writers by `step_writes_dr2`, the readers by the relation that does not fix DR2. -/
theorem operandLatchWritersAndReaders : Obligations.OperandLatchWritersAndReaders := by
  refine ⟨fun m s t => step_writes_dr2, ?_⟩
  intro i s t x hvalue hcode hexec
  have hraise : KeptByRaise AgreeButDR2 := by rintro _ _ _ ⟨x, rfl⟩; exact ⟨x, rfl⟩
  obtain ⟨_, ht', x', rfl⟩ := (exec_rel agreeButDR2_kept i (s := s) ⟨x, rfl⟩ (.inr hraise)
    (fun hread => absurd hread (not_or.mpr ⟨hvalue, hcode⟩)) (fun _ => rfl)).exists_of_next hexec
  exact ⟨x', ht'⟩

/-- Settles O53: the taken jump, which alone writes PC, is told by JF. -/
theorem instructionsDoNotReadThePc : Obligations.InstructionsDoNotReadThePc := by
  intro i s t p hjf hnone hexec
  have hs : AgreeButPc p s { s with pc := p } := by simp [AgreeButPc, hjf]
  obtain ⟨_, ht', rfl⟩ :=
    (exec_rel (agreeButPc_kept p) i hs (.inl hnone) (fun _ => rfl) (fun _ => rfl)).exists_of_next hexec
  rcases exec_keeps_pc_or_jumps hexec with ⟨hpc, hkept⟩ | ⟨hjump, htaken⟩
  · exact ⟨ht', fun htaken => by simp [hkept, hjf] at htaken, fun _ => hpc⟩
  · exact ⟨ht', fun _ => hjump, fun hnot => by simp [htaken] at hnot⟩

/-! ### DR1 -/

/-- An instruction does the same whatever DR1 holds, apart from DR1 itself: SOI and SOR keep it, the others load it. -/
theorem exec_loadDR1 (i : Instr) (s : State) (x : Byte) {t : State} (h : exec i s = .next t) :
    ∃ y, exec i (loadDR1 s x) = .next (loadDR1 t y) := by
  cases i with
  | soi v | sor v => cases h; exact ⟨x, rfl⟩
  | _ => exact ⟨t.dr1, h⟩

theorem advance_loadDR1 (t : State) (y : Byte) : advance (loadDR1 t y) = loadDR1 (advance t) y := by
  unfold advance
  rw [loadDR1_jf]
  split <;> rfl

theorem yieldPoint_loadDR1 (t : State) (y : Byte) : yieldPoint (loadDR1 t y) = loadDR1 (yieldPoint t) y := by
  rcases h : t.quitSamples with _ | ⟨_ | _, rest⟩ <;> simp [yieldPoint, h] <;> rfl

theorem endCycle_loadDR1 (t : State) (y : Byte) : endCycle (loadDR1 t y) = loadDR1 (endCycle t) y := by
  cases h : t.run <;> simp [endCycle, h, advance_loadDR1, yieldPoint_loadDR1]

/-- Settles O51: each form of a step is taken from the changed state too, with the same fetch. -/
theorem dr1IsInvisible : Obligations.DR1IsInvisible := by
  intro m s t x hstep
  cases stepTo_of_stepWith hstep with
  | halted hrun => exact ⟨x, stepWith_halted m _ hrun⟩
  | ended hrun hend => exact ⟨x, stepWith_atEnd m _ hrun hend⟩
  | ran hfetch _ hdec hexec =>
    obtain ⟨y, hy⟩ := exec_loadDR1 _ _ x hexec
    have hcycle := stepWith_of_exec (s := loadDR1 s x) hfetch hdec hy
    rw [endCycle_loadDR1] at hcycle
    exact ⟨y, hcycle⟩
  | unknown hfetch hop => exact ⟨_, stepWith_of_unassigned (s := loadDR1 s x) hfetch hop⟩

end Sys2Proof.Machine
end

section
/-! The two memories: O20 to O22, O54 and O55. What a read gives after a write, and which instructions reach banked
memory and the stack memory (20_memory.md R64, R66). -/
namespace Sys2Proof.Machine

/-! ### The canonical form -/

/-- A canonical memory lists exactly the cells that do not read as blank, each with the byte it reads as. -/
theorem Memory.mem_iff_read {n : Nat} {m : Memory} (h : Memory.wf n m) (c : Host.Cell) :
    c ∈ m ↔ Memory.read m c.1 = c.2 ∧ c.2 ≠ blankByte := by
  obtain ⟨k, v⟩ := c
  induction m with
  | nil =>
    have hblank : ¬ (blankByte = v ∧ v ≠ blankByte) := fun hv => hv.2 hv.1.symm
    simpa [Memory.read] using hblank
  | cons d m ih =>
    obtain ⟨hkeys, hcells⟩ := h
    obtain ⟨hlt, hrest⟩ := List.pairwise_cons.mp hkeys
    obtain ⟨-, hd⟩ := hcells d List.mem_cons_self
    have ih := ih ⟨hrest, fun c hc => hcells c (List.mem_cons_of_mem d hc)⟩
    by_cases hk : d.1 = k
    · have habsent : (k, v) ∉ m := fun hc => Nat.ne_of_lt (hlt _ hc) hk
      obtain ⟨_, w⟩ := d
      subst hk
      simp only [List.mem_cons, habsent, or_false, Memory.read, if_pos, Prod.mk.injEq, true_and]
      exact ⟨fun e => ⟨e.symm, e ▸ hd⟩, fun e => e.1.symm⟩
    · have hne : (k, v) ≠ d := fun e => hk (e ▸ rfl)
      simpa only [List.mem_cons, hne, false_or, Memory.read, if_neg hk] using ih

theorem Memory.nodup {n : Nat} {m : Memory} (h : Memory.wf n m) : m.Nodup :=
  h.1.imp fun hlt e => Nat.ne_of_lt hlt (congrArg Prod.fst e)

/-- Settles O20: memories that read alike list the same cells, and both list them by rising keys. -/
theorem canonicalMemoriesThatReadAlikeAreEqual : Obligations.CanonicalMemoriesThatReadAlikeAreEqual := by
  intro n m m' hm hm' hread
  have hsame : ∀ c, c ∈ m ↔ c ∈ m' := fun c => by rw [Memory.mem_iff_read hm, Memory.mem_iff_read hm', hread]
  have hperm : m.Perm m' := (List.perm_ext_iff_of_nodup (Memory.nodup hm) (Memory.nodup hm')).mpr hsame
  exact hperm.eq_of_pairwise (fun _ _ _ _ hlt hgt => absurd hgt (Nat.lt_asymm hlt)) hm.1 hm'.1

/-! ### Reads after a write -/

/-- The fetch roll-over, told by the address byte (30_encoding.md R92). -/
theorem fetchPc_eq_ite (pc : PC) : fetchPc pc = if pc.addr = 255 then ⟨pc.bank + 1, 0⟩ else pc := by
  have haddr : pc.addr = 255 ↔ pc.addr.toNat = 255 := BitVec.toNat_inj.symm
  simp only [fetchPc, nextBank, haddr]

/-- Settles O21: the fetch reads through `memRead`, at a PC that the write leaves alone. -/
theorem memoryReadsTheLastWrite : Obligations.MemoryReadsTheLastWrite := by
  intro s b a v
  refine ⟨memRead_memWrite s b a v, rfl, ?_⟩
  rintro pc rfl
  rw [← fetchPc_eq_ite]
  exact ⟨memRead_memWrite (beginCycle s) b a v _ _, memRead_memWrite (beginCycle s) b a v _ _⟩

/-- Settles O22: the two memories are separate fields of the state, and a stack access takes its offset from no
register. -/
theorem stackMemoryIsASpaceOfItsOwn : Obligations.StackMemoryIsASpaceOfItsOwn := fun s o v =>
  ⟨stackRead_stackWrite s o v, memRead_stackWrite s o v, fun b a => stackRead_memWrite s b a v o,
    fun x => ⟨stackRead_writeReg s .BI x o, rfl⟩⟩

/-- The cell at S after a push does not depend on what the stack memory held. -/
theorem stackRead_pushByte_replaced (s : State) (stack' : Memory) (v : Byte) :
    stackRead (pushByte { s with stack := stack' } v) (readReg s .S) = stackRead (pushByte s v) (readReg s .S) := by
  have hS : readReg { s with stack := stack' } .S = readReg s .S := rfl
  simp [hS]

/-! ### The writers of the memories -/

section
variable {i : Instr} {s t : State}

/-- The five writers write in bank BI; every other instruction keeps all cells. -/
theorem exec_keeps_memRead_or_writes (h : exec i s = .next t) (b a : Byte) :
    memRead t b a = memRead s b a ∨ (i.opcode ∈ [.wrp, .incb, .decb, .mwi, .mwr] ∧ b = readReg s .BI) := by
  cases exec_effect h with
  | mem hi a' v =>
    rw [memRead_memWrite]
    by_cases hb : b = readReg s .BI
    · exact .inr ⟨hi, hb⟩
    · exact .inl (if_neg fun hcell => hb hcell.1)
  | _ => exact .inl rfl

/-- The two pushes write at S; every other instruction keeps all stack cells. -/
theorem exec_keeps_stackRead_or_pushes (h : exec i s = .next t) (o : Byte) :
    stackRead t o = stackRead s o ∨ (i.opcode ∈ [.pushi, .pushr] ∧ o = readReg s .S) := by
  cases exec_effect h with
  | push hi f v =>
    by_cases ho : o = readReg s .S
    · exact .inr ⟨hi, ho⟩
    · exact .inl ((stackRead_stackWrite _ _ _ _).trans (if_neg ho))
  | _ => exact .inl rfl

end

/-! ### The readers of the memories -/

/-- The second state is the first with its memories changed by `f` and `g` and everything else kept. -/
def MemoriesChanged (f g : Memory → Memory) (s s' : State) : Prop :=
  s' = { s with mem := f s.mem, stack := g s.stack }

theorem memoriesChanged_kept_by_raise (f g : Memory → Memory) : KeptByRaise (MemoriesChanged f g) := by
  rintro _ _ _ rfl; rfl

/-- A jump under a condition touches no memory. -/
theorem MemoriesChanged.jumpIf {f g : Memory → Memory} {s s' : State} (h : MemoriesChanged f g s s') (cond : Bool)
    (b a : Byte) : MemoriesChanged f g (jumpIf cond s b a) (jumpIf cond s' b a) := by
  cases h
  cases cond <;> rfl

/-- An instruction does the same under a change of the memories, if the change keeps the memory that the instruction
writes and the cells that it reads. One case per access to a memory and operand form. -/
theorem exec_memoriesChanged {f g : Memory → Memory} (i : Instr) {s s' : State} (h : MemoriesChanged f g s s')
    (hwrite : i.opcode ∈ [.wrp, .incb, .decb, .mwi, .mwr] → f = id)
    (hread : i.opcode ∈ [.rdp, .mri, .mrr] → ∀ a, memRead s' (readReg s .BI) a = memRead s (readReg s .BI) a)
    (hpush : i.opcode ∈ [.pushi, .pushr] → g = id)
    (hpop : i.opcode = .pop → stackRead s' (readReg s .S - 1) = stackRead s (readReg s .S - 1)) :
    RelNext (MemoriesChanged f g) (exec i s) (exec i s') := by
  have hraise := memoriesChanged_kept_by_raise f g
  cases h
  cases i with
  -- writes to banked memory
  | incb x | decb x => cases hwrite (by simp [Instr.opcode]); exact .of_rel rfl
  | wrp x | mwi x => cases hwrite (by simp [Instr.opcode]); exact withReg_rel (.inr hraise) rfl fun _ => rfl
  | mwr x => cases hwrite (by simp [Instr.opcode]); exact withRegs_rel (.inr hraise) rfl rfl rfl fun _ _ => rfl
  -- reads of banked memory
  | rdp x | mri x =>
    exact withReg_rel (.inr hraise) rfl fun r => congrArg (writeReg _ r) (hread (by simp [Instr.opcode]) _)
  | mrr x =>
    exact withRegs_rel (.inr hraise) rfl rfl rfl fun r _ =>
      congrArg (writeReg _ r) (hread (by simp [Instr.opcode]) _)
  -- the stack
  | pushi x => cases hpush (by simp [Instr.opcode]); exact .of_rel rfl
  | pushr x => cases hpush (by simp [Instr.opcode]); exact withReg_rel (.inr hraise) rfl fun _ => rfl
  | pop x => exact .of_rel (congrArg (writeReg _ .B) (hpop rfl))
  -- no memory: no operand is a register code
  | nop x | soi x | sor x | addi x | subi x | jmpi x | bsi x => exact .of_rel rfl
  | jei x | jnei x => exact .of_rel (MemoriesChanged.jumpIf rfl _ _ _)
  -- no memory: one operand is a code
  | addr x | subr x | ldi x | lsl x | lsr x | cmpi x | incr x | decr x | not x | bsr x | andi x | ori x | xori x =>
    exact withReg_rel (.inr hraise) rfl fun _ => rfl
  -- no memory: both operands are codes
  | cpy x | jmpr x | cmpr x | andr x | orr x | xorr x =>
    exact withRegs_rel (.inr hraise) rfl rfl rfl fun _ _ => rfl
  | jer x | jner x =>
    exact withRegs_rel (.inr hraise) rfl rfl rfl fun _ _ => MemoriesChanged.jumpIf rfl _ _ _

/-- Settles O54: banked memory is replaced whole, and the stack memory kept. -/
theorem onlyTheListedInstructionsReachBankedMemory : Obligations.OnlyTheListedInstructionsReachBankedMemory := by
  refine ⟨fun i s t b a h hne => (exec_keeps_memRead_or_writes h b a).resolve_left hne, ?_⟩
  intro i s t mem' hwrite hread h
  have hs : MemoriesChanged (fun _ => mem') id s { s with mem := mem' } := rfl
  obtain ⟨_, ht', rfl⟩ := (exec_memoriesChanged i hs (fun hi => absurd hi hwrite) hread (fun _ => rfl)
    (fun _ => rfl)).exists_of_next h
  exact ht'

/-- A push does the same whatever the stack memory holds, but for the other stack cells. -/
theorem push_does_not_read_stack {i : Instr} {s t : State} (stack' : Memory) (hi : i.opcode ∈ [.pushi, .pushr])
    (h : exec i s = .next t) :
    ∃ u, exec i { s with stack := stack' } = .next u ∧ { u with stack := t.stack } = t ∧
      (Instr.faultCode i s.dr2 = none → stackRead u (readReg s .S) = stackRead t (readReg s .S)) := by
  cases i with
  | pushi x =>
    cases h
    exact ⟨_, rfl, rfl, fun _ => stackRead_pushByte_replaced (loadDR1 s x) stack' x⟩
  | pushr x =>
    rcases code_cases x with ⟨r, rfl⟩ | hbad
    · cases (withReg_toCode _ r _).symm.trans h
      exact ⟨_, withReg_toCode _ r _, rfl,
        fun _ => stackRead_pushByte_replaced (loadDR1 s r.toCode) stack' (readReg s r)⟩
    · cases (withReg_invalid _ x _ hbad).symm.trans h
      refine ⟨_, withReg_invalid _ x _ hbad, rfl, fun hnone => ?_⟩
      have hvalid : validCode x = true := ((Instr.faultCode_eq_none_iff _ _).mp hnone).1
      simp [hbad] at hvalid
  | _ => simp [Instr.opcode] at hi

/-- Settles O55: the stack memory is replaced whole, and banked memory kept. -/
theorem onlyPushAndPopReachTheStack : Obligations.OnlyPushAndPopReachTheStack := by
  refine ⟨fun i s t o h hne => (exec_keeps_stackRead_or_pushes h o).resolve_left hne, ?_,
    fun i s t stack' hi h => push_does_not_read_stack stack' hi h⟩
  intro i s t stack' hpush hpop h
  have hs : MemoriesChanged id (fun _ => stack') s { s with stack := stack' } := rfl
  obtain ⟨_, ht', rfl⟩ := (exec_memoriesChanged i hs (fun _ => rfl) (fun _ _ => rfl) (fun hi => absurd hi hpush)
    hpop).exists_of_next h
  exact ht'

end Sys2Proof.Machine
end

section
/-! The encoding: O1 to O4 and O6 to O10. What the decoder answers, and what the cycle around it does with the answer
(30_encoding.md R90 to R102). -/
namespace Sys2Proof.Machine

/-! ### The decoder -/

/-- Under an injective numbering the byte of each operation is decoded as its instruction. -/
theorem decodePair_self {m : OpcodeMap} (hm : m.wf) (o : Opcode) (x : Byte) :
    decodePair m (m o) x = some (Instr.ofOpcode o x) := by
  rw [decodePair, decodeOpcode_self hm, Option.map_some]

/-- A decoded instruction carries the operand byte it was decoded from. -/
theorem operandByte_of_decodePair {m : OpcodeMap} {op opnd : Byte} {i : Instr} (h : decodePair m op opnd = some i) :
    i.operandByte = opnd := by
  obtain ⟨o, -, rfl⟩ := Option.map_eq_some_iff.mp h
  exact Instr.operandByte_ofOpcode o opnd

section
variable {m : OpcodeMap} {op opnd : Byte}

theorem decode_of_known {i : Instr} (h : decodePair m op opnd = some i) (rest : List Byte) :
    decode m (op :: opnd :: rest) = .ok (i, rest) := by
  simp only [decode, h]

theorem decode_of_unassigned (h : ∀ o, m o ≠ op) (rest : List Byte) :
    decode m (op :: opnd :: rest) = .error (.unknownOpcode op) := by
  have hdec : decodePair m op opnd = none := decodePair_eq_none_iff.mpr h
  simp only [decode, hdec]

/-- Everything the decoder can answer: the bytes are too short, or begin with a known or an unassigned opcode byte. -/
theorem decode_cases (m : OpcodeMap) (bytes : List Byte) :
    (bytes.length < 2 ∧ decode m bytes = .error .truncated) ∨
    (∃ op opnd rest, bytes = op :: opnd :: rest ∧
      ((∃ i, decodePair m op opnd = some i ∧ decode m bytes = .ok (i, rest)) ∨
       ((∀ o, m o ≠ op) ∧ decode m bytes = .error (.unknownOpcode op)))) := by
  match bytes with
  | [] | [_] => exact .inl ⟨by simp, rfl⟩
  | op :: opnd :: rest =>
    refine .inr ⟨op, opnd, rest, rfl, ?_⟩
    cases h : decodePair m op opnd with
    | some i => exact .inl ⟨i, rfl, decode_of_known h rest⟩
    | none =>
      have hop : ∀ o, m o ≠ op := decodePair_eq_none_iff.mp h
      exact .inr ⟨hop, decode_of_unassigned hop rest⟩

theorem decode_eq_truncated_iff (m : OpcodeMap) (bytes : List Byte) :
    decode m bytes = .error .truncated ↔ bytes.length < 2 := by
  rcases decode_cases m bytes with ⟨hlen, e⟩ | ⟨op, opnd, rest, rfl, ⟨i, -, e⟩ | ⟨-, e⟩⟩
  · simp [e, hlen]
  all_goals simp [e]

/-- The bytes behind an accepted instruction. -/
theorem decode_eq_ok {bytes rest : List Byte} {i : Instr} (h : decode m bytes = .ok (i, rest)) :
    ∃ op opnd, bytes = op :: opnd :: rest ∧ decodePair m op opnd = some i := by
  rcases decode_cases m bytes with ⟨-, e⟩ | ⟨op, opnd, rest', hbytes, ⟨i', hdec, e⟩ | ⟨-, e⟩⟩
  · cases e.symm.trans h
  · cases e.symm.trans h
    exact ⟨op, opnd, hbytes, hdec⟩
  · cases e.symm.trans h

theorem decode_eq_unknownOpcode_iff (m : OpcodeMap) (op opnd : Byte) (rest : List Byte) (x : Byte) :
    decode m (op :: opnd :: rest) = .error (.unknownOpcode x) ↔ x = op ∧ ∀ o, m o ≠ op := by
  cases h : decodePair m op opnd with
  | some i =>
    have hop : m i.opcode = op := opcode_of_decodePair h
    simp only [decode_of_known h, reduceCtorEq, false_iff, not_and]
    exact fun _ hno => hno _ hop
  | none =>
    have hop : ∀ o, m o ≠ op := decodePair_eq_none_iff.mp h
    rw [decode_of_unassigned hop]
    exact ⟨fun e => by cases e; exact ⟨rfl, hop⟩, fun ⟨e, _⟩ => by rw [e]⟩

end

/-! ### Decoder and encoder -/

/-- Settles O2: the encoding begins with the byte of the instruction's operation, and that byte selects it. -/
theorem decodeOfEncodeIsTheInstruction : Obligations.DecodeOfEncodeIsTheInstruction := by
  intro m hm i rest
  have hdec : decodePair m (m i.opcode) i.operandByte = some i := by
    rw [decodePair_self hm, Instr.ofOpcode_opcode]
  exact decode_of_known hdec rest

/-- Settles O3: both bytes can be told from the decoded instruction. -/
theorem encodeOfDecodeIsTheBytes : Obligations.EncodeOfDecodeIsTheBytes := by
  intro m bytes i rest h
  obtain ⟨op, opnd, rfl, hdec⟩ := decode_eq_ok h
  rw [encode, opcode_of_decodePair hdec, operandByte_of_decodePair hdec]
  rfl

/-! ### The default numbering -/

/-- The default numbering counts the operations in the order of R100. -/
theorem default_getElem_all : ∀ n : Fin Opcode.all.length, (OpcodeMap.default Opcode.all[n]).toNat = n := by decide

theorem default_le (o : Opcode) : (OpcodeMap.default o).toNat ≤ 0x28 := by cases o <;> decide

/-- The opcode bytes that the default numbering assigns to no operation. -/
theorem default_unassigned_iff (op : Byte) : (∀ o, OpcodeMap.default o ≠ op) ↔ 0x28 < op.toNat := by
  constructor
  · intro hno
    refine Nat.lt_of_not_le fun hle => ?_
    have hlt : op.toNat < Opcode.all.length := Nat.lt_succ_of_le hle
    exact hno _ (BitVec.eq_of_toNat_eq (default_getElem_all ⟨op.toNat, hlt⟩))
  · rintro hlt o rfl
    exact Nat.not_lt.mpr (default_le o) hlt

/-- Settles O4, clause by clause. -/
theorem decoderRejectsExactly : Obligations.DecoderRejectsExactly :=
  ⟨decode_eq_truncated_iff, decode_eq_unknownOpcode_iff, default_unassigned_iff⟩

/-- Settles O1: the thirteen words are encodings, 0x29 and 0xFF are above 0x28, and one byte is too short. -/
theorem wordsOfTheSpecDecode : Obligations.WordsOfTheSpecDecode := by
  have word := decodeOfEncodeIsTheInstruction .default OpcodeMap.default_wf
  have unknown : ∀ op opnd : Byte, 0x28 < op.toNat →
      decode .default [op, opnd] = .error (.unknownOpcode op) :=
    fun op _ hop => decode_of_unassigned ((default_unassigned_iff op).mpr hop) []
  exact ⟨word (.nop 0xC8) [], word (.soi 0x07) [0x07, 0x01], word (.addi 0x0A) [], word (.cpy 0x01) [],
    word (.rdp 0x03) [], word (.lsr 0x02) [], word (.jei 0x20) [], word (.cmpr 0x01) [], word (.mwr 0x01) [],
    word (.pop 0x00) [], word (.decb 0x00) [], word (.not 0x04) [], word (.bsr 0x03) [],
    unknown 0x29 0x07 (by decide), unknown 0xFF 0xFF (by decide), (decode_eq_truncated_iff _ _).mpr (by decide)⟩

/-! ### The cycle of a decoded instruction -/

/-- A cycle that fetches an instruction runs it. -/
theorem stepWith_of_decodePair {m : OpcodeMap} {s : State} {i : Instr} (hfetch : Fetching s)
    (hdec : decodePair m (fetchedOpcode s) (fetchedOperand s) = some i) :
    stepWith m s = finish (exec i (beginCycle s)) := by
  have hrun : decodeAndRun m (beginCycle s) = exec i (beginCycle s) := by
    unfold fetchedOpcode fetchedOperand at hdec
    simp only [decodeAndRun, hdec]
  rw [stepWith_running m s hfetch.1 hfetch.2, hrun]

theorem endCycle_eq_ite (t : State) : endCycle t = if t.run = .halted then t else yieldPoint (advance t) := by
  rcases endCycle_cases t with ⟨hrun, e⟩ | ⟨hrun, e⟩ <;> simp [e, hrun]

/-- Settles O6: the two bytes are those that the cycle fetches. -/
theorem stepRunsTheDecodedInstruction : Obligations.StepRunsTheDecodedInstruction := by
  refine ⟨?_, endCycle_eq_ite, fun _ => rfl⟩
  rintro m s i hrun hlt pc rfl hdecode
  rw [← fetchPc_eq_ite] at hdecode ⊢
  obtain ⟨op, opnd, hbytes, hdec⟩ := decode_eq_ok hdecode
  cases hbytes
  exact stepWith_of_decodePair ⟨hrun, hlt⟩ hdec

/-- The end of a cycle that neither faulted nor jumped. -/
theorem endCycle_of_not_jumped {t : State} (hrun : t.run = .running) (hjf : t.jf = false) :
    endCycle t = yieldPoint { t with pc := advancePc t.pc } := by
  simp [endCycle_eq_ite, hrun, advance, hjf]

/-- Settles O7: both routines are the load of DR2, and the cycle ends without a jump. -/
theorem soiAndSorOnlyPrimeTheLatch : Obligations.SoiAndSorOnlyPrimeTheLatch := by
  intro m hm s hfetch hop
  have hstep : stepWith m s = .next (endCycle (loadDR2 (beginCycle s) (fetchedOperand s))) := by
    rcases hop with hop | hop
    · exact stepWith_of_exec (i := .soi _) hfetch (hop ▸ decodePair_self hm .soi _) rfl
    · exact stepWith_of_exec (i := .sor _) hfetch (hop ▸ decodePair_self hm .sor _) rfl
  exact hstep.trans (congrArg _ (endCycle_of_not_jumped (t := loadDR2 (beginCycle s) _) hfetch.1 rfl))

/-- Settles O9: the count of an unknown opcode ends the cycle without a jump. -/
theorem unknownOpcodeIsCountedOnly : Obligations.UnknownOpcodeIsCountedOnly := by
  intro m s hfetch hop
  exact (stepWith_of_unassigned hfetch hop).trans
    (congrArg _ (endCycle_of_not_jumped (t := unknownOpcode (beginCycle s) _) hfetch.1 rfl))

/-! ### DR1 in a cycle -/

theorem withReg_exists_next (s : State) (c : Byte) (f : Reg → State) : ∃ t, withReg s c f = .next t := by
  rcases withReg_cases s c f with ⟨r, -, e⟩ | ⟨-, e⟩ <;> exact ⟨_, e⟩

theorem withRegs_exists_next (s : State) (f : Reg → Reg → State) : ∃ t, withRegs s f = .next t := by
  rcases withRegs_cases s f with ⟨r, q, -, -, e⟩ | ⟨-, e⟩ | ⟨-, -, e⟩ <;> exact ⟨_, e⟩

/-- An instruction always has a next state, an invalid code included: one case per operand form. -/
theorem exec_exists_next (i : Instr) (s : State) : ∃ t, exec i s = .next t := by
  cases i with
  | nop | soi | sor | addi | subi | jmpi | jei | jnei | pushi | pop | incb | decb | bsi => exact ⟨_, rfl⟩
  | addr | subr | ldi | wrp | rdp | lsl | lsr | cmpi | mri | mwi | pushr | incr | decr | andi | ori | xori | not
  | bsr => exact withReg_exists_next _ _ _
  | cpy | jmpr | jer | jner | cmpr | mrr | mwr | andr | orr | xorr => exact withRegs_exists_next _ _

/-- All instructions but SOI and SOR load DR1 first, so that what it held before makes no difference. -/
theorem exec_loadDR1_before {i : Instr} (hi : i.opcode ≠ .soi ∧ i.opcode ≠ .sor) (s : State) (x : Byte) :
    exec i (loadDR1 s x) = exec i s := by
  cases i with
  | soi v => exact absurd rfl hi.1
  | sor v => exact absurd rfl hi.2
  | _ => rfl

/-- An instruction other than NOP, SOI and SOR leaves its operand byte in DR1. -/
theorem exec_dr1 {i : Instr} {s t : State} (hi : i.opcode ∉ [.soi, .sor, .nop]) (h : exec i s = .next t) :
    t.dr1 = i.operandByte := by
  cases exec_effect h with
  | latch hlatch => exact absurd hlatch hi
  | _ => rfl

/-- NOP clears both latches. -/
theorem exec_nop_latches {o : Byte} {s t : State} (h : exec (.nop o) s = .next t) : t.dr1 = 0 ∧ t.dr2 = 0 := by
  cases h
  exact ⟨rfl, rfl⟩

/-- Settles O8: a known opcode by its decoding, an unknown one by the count. -/
theorem everyOtherOpcodeLoadsDR1AndRuns : Obligations.EveryOtherOpcodeLoadsDR1AndRuns := by
  intro m hm s hfetch
  constructor
  · intro o hsoi hsor hop
    obtain ⟨t, ht⟩ := exec_exists_next (Instr.ofOpcode o (fetchedOperand s)) (beginCycle s)
    refine ⟨t, stepWith_of_exec hfetch (hop ▸ decodePair_self hm o _) ht, ht, fun x => ?_, fun hnop => ?_, ?_⟩
    · exact (exec_loadDR1_before (by simp [hsoi, hsor]) (beginCycle s) x).trans ht
    · simpa using exec_dr1 (by simp [hsoi, hsor, hnop]) ht
    · rintro rfl
      exact exec_nop_latches ht
  · intro hno
    exact ⟨stepWith_of_unassigned hfetch fun o e => hno o e.symm, rfl⟩

/-! ### PC after a completed instruction -/

theorem endCycle_pc_of_running {t : State} (hrun : t.run = .running) :
    (endCycle t).pc = if t.jf then t.pc else advancePc t.pc := by
  simp [endCycle_eq_ite, hrun]

/-- At address 254 the advance leads to the next bank, the bank after 255 being 0. -/
theorem advancePc_of_254 {pc : PC} (h : pc.addr.toNat = 254) :
    (advancePc pc).bank.toNat = (pc.bank.toNat + 1) % 256 ∧ (advancePc pc).addr = 0 := by
  rw [advancePc, if_pos (Nat.le_of_eq h.symm)]
  exact ⟨BitVec.toNat_add _ _, rfl⟩

/-- Below 254 the advance stays in the bank. -/
theorem advancePc_of_lt {pc : PC} (h : pc.addr.toNat < 254) :
    (advancePc pc).bank = pc.bank ∧ (advancePc pc).addr.toNat = pc.addr.toNat + 2 := by
  rw [advancePc, if_neg (Nat.not_le.mpr h)]
  have htwo : (2 : Byte).toNat = 2 := rfl
  exact ⟨rfl, by rw [BitVec.toNat_add, htwo]; omega⟩

/-- Settles O10: without a jump the instruction leaves PC at the fetch address, which is at most 254. -/
theorem programCounterAfterAStep : Obligations.ProgramCounterAfterAStep := by
  intro m s t u i hfetch hdec hexec hrun hstep
  cases (stepWith_of_exec hfetch hdec hexec).symm.trans hstep
  rw [endCycle_pc_of_running hrun]
  refine ⟨fun hjf => if_pos hjf, fun hjf b a hpc => ?_⟩
  rw [← fetchPc_eq_ite] at hpc
  have hkept : t.pc = ⟨b, a⟩ := by
    rcases exec_keeps_pc_or_jumps hexec with ⟨hsame, -⟩ | ⟨-, hjumped⟩
    · exact hsame.trans hpc
    · simp [hjf] at hjumped
  have hle : a.toNat ≤ 254 := by simpa [hpc] using fetchPc_addr_le s.pc
  rw [hjf, hkept]
  exact ⟨fun h254 => advancePc_of_254 (pc := ⟨b, a⟩) h254,
    fun hne => advancePc_of_lt (pc := ⟨b, a⟩) (Nat.lt_of_le_of_ne hle hne)⟩

end Sys2Proof.Machine
end

section
/-! The latch instructions: O25 and O26. Their next states are loads of the latches (40_latch_nop.md R120 to R122), and
a load of a latch stays within a frame that allows it. -/
namespace Sys2Proof.Machine

/-! ### Frames and the latches -/

namespace Frame
variable {f : Footprint} {s t : State}

theorem refl (f : Footprint) (s : State) : Frame f s s := by
  constructor <;> intros <;> rfl

/-- Every frame allows a load of DR1. -/
theorem loadDR1 (h : Frame f s t) (v : Byte) : Frame f s (loadDR1 t v) := { h with }

theorem loadDR2 (h : Frame f s t) (hf : f.dr2 = true) (v : Byte) : Frame f s (loadDR2 t v) :=
  { h with dr2 := fun hno => nomatch hf.symm.trans hno }

end Frame

/-! ### NOP, SOI and SOR -/

section
variable (s : State)

/-- The operand byte, which the cycle puts in DR1, is gone when NOP is done. -/
theorem exec_nop (o : Byte) : exec (.nop o) s = .next (loadDR2 (loadDR1 s 0) 0) := rfl

theorem exec_soi (v : Byte) : exec (.soi v) s = .next (loadDR2 s v) := rfl

theorem exec_sor (c : Byte) : exec (.sor c) s = .next (loadDR2 s c) := rfl

end

/-- Settles O25: NOP is a load of both latches with 0. -/
theorem nopClearsBothLatches : Obligations.NopClearsBothLatches := by
  intro o s
  have hframe : Frame { dr2 := true } s (loadDR2 (loadDR1 s 0) 0) := ((Frame.refl _ s).loadDR1 0).loadDR2 rfl 0
  exact ⟨_, exec_nop s o, rfl, rfl, hframe⟩

/-- Settles O26: SOI and SOR are one and the same load of DR2. -/
theorem soiAndSorComplete : Obligations.SoiAndSorComplete := by
  intro v s
  have hframe : Frame { dr2 := true } s (loadDR2 s v) := (Frame.refl _ s).loadDR2 rfl v
  exact ⟨⟨_, exec_soi s v, rfl, rfl, hframe⟩, ⟨_, exec_sor s v, rfl, rfl, hframe⟩⟩

end Sys2Proof.Machine
end

section
/-! The arithmetic instructions: O27 and O28. Each is a load of DR1 and then one write to A of a sum or difference modulo
256 (41_arithmetic.md R130 to R133), and no flag is written (R134). -/
namespace Sys2Proof.Machine

/-! ### The byte operations as integer arithmetic -/

theorem addByte_toNat (v w : Byte) : (addByte v w).toNat = (v.toNat + w.toNat) % 256 := BitVec.toNat_add v w

/-- The spec's "mathematical modulus" (00_scope.md R9): the difference is an integer and may be negative. -/
theorem subByte_toNat (v w : Byte) : ((subByte v w).toNat : Int) = (v.toNat - w.toNat : Int) % 256 := by
  have hsub : (subByte v w).toNat = (256 - w.toNat + v.toNat) % 256 := BitVec.toNat_sub v w
  have hw : w.toNat < 256 := w.isLt
  omega

/-! ### Register writes -/

theorem readReg_writeReg_same (s : State) (r : Reg) (v : Byte) : readReg (writeReg s r v) r = v := by simp

/-- A write to a register that the frame lists stays within the frame. -/
theorem Frame.writeReg {f : Footprint} {s t : State} (h : Frame f s t) {r : Reg} (hr : r ∈ f.regs) (v : Byte) :
    Frame f s (writeReg t r v) :=
  { h with
    regs := fun q hq => by
      have hne : q ≠ r := fun e => hq (e ▸ hr)
      rw [readReg_writeReg, if_neg hne, h.regs q hq] }

/-- The frame of an instruction whose one effect is a write to register `r`. -/
theorem frame_writeReg_loadDR1 (s : State) (x : Byte) (r : Reg) (v : Byte) :
    Frame { regs := [r] } s (writeReg (loadDR1 s x) r v) :=
  ((Frame.refl _ s).loadDR1 x).writeReg (List.mem_singleton_self r) v

/-! ### ADDI, SUBI, ADDR and SUBR -/

section
variable (s : State)

theorem exec_addi (v : Byte) :
    exec (.addi v) s = .next (writeReg (loadDR1 s v) .A (addByte (readReg s .A) v)) := rfl

theorem exec_subi (v : Byte) :
    exec (.subi v) s = .next (writeReg (loadDR1 s v) .A (subByte (readReg s .A) v)) := rfl

/-- Both operands are read before the write, A as the source included. -/
theorem exec_addr (r : Reg) :
    exec (.addr r.toCode) s = .next (writeReg (loadDR1 s r.toCode) .A (addByte (readReg s .A) (readReg s r))) :=
  withReg_toCode _ _ _

/-- A is the minuend (92_eei_decisions.md D22). -/
theorem exec_subr (r : Reg) :
    exec (.subr r.toCode) s = .next (writeReg (loadDR1 s r.toCode) .A (subByte (readReg s .A) (readReg s r))) :=
  withReg_toCode _ _ _

end

/-- Settles O27: A receives `addByte` or `subByte` of itself and the operand byte. -/
theorem addAndSubtractImmediate : Obligations.AddAndSubtractImmediate := by
  intro v s
  constructor
  · refine ⟨_, exec_addi s v, ?_, rfl, frame_writeReg_loadDR1 s _ _ _⟩
    rw [readReg_writeReg_same, addByte_toNat]
  · refine ⟨_, exec_subi s v, ?_, rfl, frame_writeReg_loadDR1 s _ _ _⟩
    rw [readReg_writeReg_same, subByte_toNat]

/-- Settles O28: A receives `addByte` or `subByte` of itself and the named register. -/
theorem addAndSubtractRegister : Obligations.AddAndSubtractRegister := by
  intro r s
  constructor
  · refine ⟨_, exec_addr s r, ?_, rfl, frame_writeReg_loadDR1 s _ _ _⟩
    rw [readReg_writeReg_same, addByte_toNat]
  · refine ⟨_, exec_subr s r, ?_, rfl, frame_writeReg_loadDR1 s _ _ _⟩
    rw [readReg_writeReg_same, subByte_toNat]

end Sys2Proof.Machine
end

section
/-! The register transfer instructions: O29. Both are a load of DR1 and then one write to the register that DR1 names
(42_register_transfer.md R140 and R141). -/
namespace Sys2Proof.Machine

section
variable (s : State)

theorem exec_ldi (r : Reg) : exec (.ldi r.toCode) s = .next (writeReg (loadDR1 s r.toCode) r s.dr2) :=
  withReg_toCode _ _ _

/-- The source is read before the write, the destination as the source included. -/
theorem exec_cpy (r : Reg) {q : Reg} (hq : s.dr2 = q.toCode) :
    exec (.cpy r.toCode) s = .next (writeReg (loadDR1 s r.toCode) r (readReg s q)) :=
  withRegs_valid _ _ _ _ rfl hq

end

/-- Settles O29: the named register receives DR2 or the source register, and the frame lists only that register. -/
theorem loadImmediateAndCopy : Obligations.LoadImmediateAndCopy := by
  intro r s
  constructor
  · exact ⟨_, exec_ldi s r, readReg_writeReg_same _ _ _, rfl, frame_writeReg_loadDR1 s _ _ _⟩
  · intro q hq
    exact ⟨_, exec_cpy s r hq, readReg_writeReg_same _ _ _, rfl, frame_writeReg_loadDR1 s _ _ _⟩

end Sys2Proof.Machine
end

section
/-! The pointer instructions: O30. Each is a load of DR1 and then one write of a byte: WRP to the memory cell at (BI, P),
RDP to the register that DR1 names (43_pointer_indirect.md R150 and R151). -/
namespace Sys2Proof.Machine

/-! ### Memory writes -/

theorem memRead_memWrite_same (s : State) (b a v : Byte) : memRead (memWrite s b a v) b a = v := by simp

/-- A write to a memory cell that the frame lists stays within the frame. -/
theorem Frame.memWrite {f : Footprint} {s t : State} (h : Frame f s t) {b a : Byte} (hcell : (b, a) ∈ f.mem)
    (v : Byte) : Frame f s (memWrite t b a v) :=
  { h with
    mem := fun b' a' hother => by
      have hne : ¬ (b' = b ∧ a' = a) := fun ⟨hb, ha⟩ => hother (hb ▸ ha ▸ hcell)
      rw [memRead_memWrite, if_neg hne, h.mem b' a' hother] }

/-- The frame of an instruction whose one effect is a write to the memory cell (b, a). -/
theorem frame_memWrite_loadDR1 (s : State) (x b a v : Byte) :
    Frame { mem := [(b, a)] } s (memWrite (loadDR1 s x) b a v) :=
  ((Frame.refl _ s).loadDR1 x).memWrite (List.mem_singleton_self (b, a)) v

/-! ### WRP and RDP -/

section
variable (s : State)

/-- DR1 names the data register (92_eei_decisions.md D3); it may be BI or P itself. -/
theorem exec_wrp (r : Reg) :
    exec (.wrp r.toCode) s =
      .next (memWrite (loadDR1 s r.toCode) (readReg s .BI) (readReg s .P) (readReg s r)) :=
  withReg_toCode _ _ _

/-- BI and P are read before the write, BI or P as the destination included. -/
theorem exec_rdp (r : Reg) :
    exec (.rdp r.toCode) s =
      .next (writeReg (loadDR1 s r.toCode) r (memRead s (readReg s .BI) (readReg s .P))) :=
  withReg_toCode _ _ _

end

/-- Settles O30: WRP's frame lists only the cell at (BI, P), and RDP's only the named register. -/
theorem pointerWriteAndRead : Obligations.PointerWriteAndRead := by
  intro r s
  constructor
  · exact ⟨_, exec_wrp s r, memRead_memWrite_same _ _ _ _, rfl, frame_memWrite_loadDR1 s _ _ _ _⟩
  · exact ⟨_, exec_rdp s r, readReg_writeReg_same _ _ _, rfl, frame_writeReg_loadDR1 s _ _ _⟩

end Sys2Proof.Machine
end

section
/-! The shift instructions: O31. Both are a load of DR1 and then one write of a shifted byte to the register that DR1
names (44_shift.md R161 and R162); no flag is written. -/
namespace Sys2Proof.Machine

/-! ### The shifts as doubling and halving -/

/-- The old bit 7 is lost (44_shift.md R160). -/
theorem shiftLeftOne_toNat (v : Byte) : (shiftLeftOne v).toNat = v.toNat * 2 % 256 := by
  rw [shiftLeftOne, BitVec.toNat_shiftLeft, Nat.shiftLeft_eq]

/-- Zero enters at bit 7 (93_implementation_defined.md K1). -/
theorem shiftRightOne_toNat (v : Byte) : (shiftRightOne v).toNat = v.toNat / 2 := by
  rw [shiftRightOne, BitVec.toNat_ushiftRight, Nat.shiftRight_eq_div_pow]

/-! ### LSL and LSR -/

section
variable (s : State)

theorem exec_lsl (r : Reg) :
    exec (.lsl r.toCode) s = .next (writeReg (loadDR1 s r.toCode) r (shiftLeftOne (readReg s r))) :=
  withReg_toCode _ _ _

theorem exec_lsr (r : Reg) :
    exec (.lsr r.toCode) s = .next (writeReg (loadDR1 s r.toCode) r (shiftRightOne (readReg s r))) :=
  withReg_toCode _ _ _

end

/-- Settles O31: the named register receives its old byte shifted, and the frame lists only that register. -/
theorem shiftsMoveOnePosition : Obligations.ShiftsMoveOnePosition := by
  intro r s
  constructor
  · refine ⟨_, exec_lsl s r, ?_, rfl, frame_writeReg_loadDR1 s _ _ _⟩
    rw [readReg_writeReg_same, shiftLeftOne_toNat]
  · refine ⟨_, exec_lsr s r, ?_, rfl, frame_writeReg_loadDR1 s _ _ _⟩
    rw [readReg_writeReg_same, shiftRightOne_toNat]

end Sys2Proof.Machine
end

section
/-! The jumps: O32 to O34. Each is a load of DR1 and then one jump, unconditional or on EQUAL, to the bank that DR2 gives
and the address that DR1 gives (45_branch_compare.md R170 to R175, 92_eei_decisions.md D4). -/
namespace Sys2Proof.Machine

/-! ### Jumps, taken and not taken -/

/-- A taken jump stays within a frame that allows PC and JF to change. -/
theorem Frame.jumpTo {f : Footprint} {s t : State} (h : Frame f s t) (hf : f.pc = true) (b a : Byte) :
    Frame f s (jumpTo t b a) :=
  { h with
    pc := fun hno => nomatch hf.symm.trans hno
    jf := fun hno => nomatch hf.symm.trans hno }

/-- The frame of an instruction whose one effect is a jump. -/
theorem frame_jumpTo_loadDR1 (s : State) (x b a : Byte) : Frame { pc := true } s (jumpTo (loadDR1 s x) b a) :=
  ((Frame.refl _ s).loadDR1 x).jumpTo rfl b a

/-- Of two conditional jumps to one target, the one whose condition holds is taken, and the one whose condition fails
does nothing after its load of DR1. -/
theorem jumpIf_taken_and_not_taken (s : State) (x b a : Byte) {holds fails : Bool} (hholds : holds = true)
    (hfails : fails = false) :
    (jumpIf holds (loadDR1 s x) b a).pc = ⟨b, a⟩ ∧ (jumpIf holds (loadDR1 s x) b a).jf = true ∧
      Frame { pc := true } s (jumpIf holds (loadDR1 s x) b a) ∧ Frame {} s (jumpIf fails (loadDR1 s x) b a) := by
  subst hholds hfails
  rw [jumpIf_true, jumpIf_false]
  exact ⟨jumpTo_pc _ _ _, jumpTo_jf _ _ _, frame_jumpTo_loadDR1 s x b a, (Frame.refl _ s).loadDR1 x⟩

/-! ### JMPI, JMPR, JEI, JNEI, JER and JNER -/

section
variable (s : State)

theorem exec_jmpi (a : Byte) : exec (.jmpi a) s = .next (jumpTo (loadDR1 s a) s.dr2 a) := rfl

theorem exec_jei (a : Byte) : exec (.jei a) s = .next (jumpIf s.flags.equal (loadDR1 s a) s.dr2 a) := rfl

theorem exec_jnei (a : Byte) : exec (.jnei a) s = .next (jumpIf (!s.flags.equal) (loadDR1 s a) s.dr2 a) := rfl

variable (r : Reg) {q : Reg} (hq : s.dr2 = q.toCode)
include hq

/-- The bank register and the address register may be one (45_branch_compare.md R171). -/
theorem exec_jmpr :
    exec (.jmpr r.toCode) s = .next (jumpTo (loadDR1 s r.toCode) (readReg s q) (readReg s r)) :=
  withRegs_valid _ _ _ _ rfl hq

theorem exec_jer :
    exec (.jer r.toCode) s =
      .next (jumpIf s.flags.equal (loadDR1 s r.toCode) (readReg s q) (readReg s r)) :=
  withRegs_valid _ _ _ _ rfl hq

theorem exec_jner :
    exec (.jner r.toCode) s =
      .next (jumpIf (!s.flags.equal) (loadDR1 s r.toCode) (readReg s q) (readReg s r)) :=
  withRegs_valid _ _ _ _ rfl hq

end

/-- Settles O32: both are one `jumpTo` after the load of DR1, and the frame lists only PC with JF. -/
theorem unconditionalJumpsSetBothPcBytes : Obligations.UnconditionalJumpsSetBothPcBytes := by
  constructor
  · intro a s
    exact ⟨_, exec_jmpi s a, jumpTo_pc _ _ _, jumpTo_jf _ _ _, rfl, frame_jumpTo_loadDR1 s _ _ _⟩
  · intro r q s hq
    exact ⟨_, exec_jmpr s r hq, jumpTo_pc _ _ _, jumpTo_jf _ _ _, rfl, frame_jumpTo_loadDR1 s _ _ _⟩

/-- Settles O33: the conditions of JEI and JNEI are EQUAL and its negation. -/
theorem conditionalJumpsImmediate : Obligations.ConditionalJumpsImmediate := by
  intro a s
  refine ⟨_, _, exec_jei s a, exec_jnei s a, jumpIf_dr1 _ _ _ _, jumpIf_dr1 _ _ _ _, fun hset => ?_, fun hclear => ?_⟩
  · exact jumpIf_taken_and_not_taken s a s.dr2 a hset (by rw [hset]; rfl)
  · exact jumpIf_taken_and_not_taken s a s.dr2 a (by rw [hclear]; rfl) hclear

/-- Settles O34: the conditions of JER and JNER are EQUAL and its negation, tested after both codes are resolved. -/
theorem conditionalJumpsRegister : Obligations.ConditionalJumpsRegister := by
  intro r q s hq
  refine ⟨_, _, exec_jer s r hq, exec_jner s r hq, jumpIf_dr1 _ _ _ _, jumpIf_dr1 _ _ _ _, fun hset => ?_,
    fun hclear => ?_⟩
  · exact jumpIf_taken_and_not_taken s _ _ _ hset (by rw [hset]; rfl)
  · exact jumpIf_taken_and_not_taken s _ _ _ (by rw [hclear]; rfl) hclear

end Sys2Proof.Machine
end

section
/-! The compares: O35. Both are a load of DR1 and then one write to EQUAL (45_branch_compare.md R180 and R181). -/
namespace Sys2Proof.Machine

/-! ### Bit equality and the write to EQUAL -/

/-- Equality of bytes is the agreement of all eight bits (00_scope.md R9). -/
theorem bitEqual_iff (v w : Byte) : bitEqual v w = true ↔ ∀ k, k < 8 → v.getLsbD k = w.getLsbD k := by
  rw [bitEqual, beq_iff_eq]
  constructor
  · rintro rfl _ _
    rfl
  · exact BitVec.eq_of_getLsbD_eq

/-- A compare stays within a frame that allows EQUAL to change. -/
theorem Frame.compareBytes {f : Footprint} {s t : State} (h : Frame f s t) (hf : f.equal = true) (v w : Byte) :
    Frame f s (compareBytes t v w) :=
  { h with equal := fun hno => nomatch hf.symm.trans hno }

/-- The frame of an instruction whose one effect is a compare. -/
theorem frame_compareBytes_loadDR1 (s : State) (x v w : Byte) :
    Frame { equal := true } s (compareBytes (loadDR1 s x) v w) :=
  ((Frame.refl _ s).loadDR1 x).compareBytes rfl v w

/-! ### CMPI and CMPR -/

section
variable (s : State) (r : Reg)

theorem exec_cmpi :
    exec (.cmpi r.toCode) s = .next (compareBytes (loadDR1 s r.toCode) (readReg s r) s.dr2) :=
  withReg_toCode _ _ _

theorem exec_cmpr {q : Reg} (hq : s.dr2 = q.toCode) :
    exec (.cmpr r.toCode) s = .next (compareBytes (loadDR1 s r.toCode) (readReg s r) (readReg s q)) :=
  withRegs_valid _ _ _ _ rfl hq

end

/-- Settles O35: EQUAL receives `bitEqual` of the two operands, and the frame lists only EQUAL. -/
theorem comparesSetEqualOnBitEquality : Obligations.ComparesSetEqualOnBitEquality := by
  intro r s
  constructor
  · exact ⟨_, exec_cmpi s r, bitEqual_iff _ _, rfl, frame_compareBytes_loadDR1 s _ _ _⟩
  · intro q hq
    exact ⟨_, exec_cmpr s r hq, bitEqual_iff _ _, rfl, frame_compareBytes_loadDR1 s _ _ _⟩

end Sys2Proof.Machine
end

section
/-! The memory instructions: O36 and O37. Each is a load of DR1 and then one write of a byte: MRI and MRR to the
register that DR1 names, MWI and MWR to a memory cell in bank BI (46_memory_rw.md R190 to R193). -/
namespace Sys2Proof.Machine

/-! ### MRI and MRR -/

section
variable (s : State) (r : Reg)

/-- BI is read before the write, BI as the destination included. -/
theorem exec_mri :
    exec (.mri r.toCode) s = .next (writeReg (loadDR1 s r.toCode) r (memRead s (readReg s .BI) s.dr2)) :=
  withReg_toCode _ _ _

/-- DR2 names the register with the address, DR1 the destination (92_eei_decisions.md D6); both may be the same. -/
theorem exec_mrr {q : Reg} (hq : s.dr2 = q.toCode) :
    exec (.mrr r.toCode) s =
      .next (writeReg (loadDR1 s r.toCode) r (memRead s (readReg s .BI) (readReg s q))) :=
  withRegs_valid _ _ _ _ rfl hq

/-! ### MWI and MWR -/

theorem exec_mwi :
    exec (.mwi r.toCode) s = .next (memWrite (loadDR1 s r.toCode) (readReg s .BI) s.dr2 (readReg s r)) :=
  withReg_toCode _ _ _

/-- DR2 names the register with the address, DR1 the data register (92_eei_decisions.md D6). -/
theorem exec_mwr {q : Reg} (hq : s.dr2 = q.toCode) :
    exec (.mwr r.toCode) s =
      .next (memWrite (loadDR1 s r.toCode) (readReg s .BI) (readReg s q) (readReg s r)) :=
  withRegs_valid _ _ _ _ rfl hq

end

/-- Settles O36: the named register receives the byte at the old BI and address, and the frame lists only that
register. -/
theorem memoryReadInstructions : Obligations.MemoryReadInstructions := by
  intro r s
  constructor
  · exact ⟨_, exec_mri s r, readReg_writeReg_same _ _ _, rfl, frame_writeReg_loadDR1 s _ _ _⟩
  · intro q hq
    exact ⟨_, exec_mrr s r hq, readReg_writeReg_same _ _ _, rfl, frame_writeReg_loadDR1 s _ _ _⟩

/-- Settles O37: the cell in bank BI receives the named register, and the frame lists only that cell. -/
theorem memoryWriteInstructions : Obligations.MemoryWriteInstructions := by
  intro r s
  constructor
  · exact ⟨_, exec_mwi s r, memRead_memWrite_same _ _ _ _, rfl, frame_memWrite_loadDR1 s _ _ _ _⟩
  · intro q hq
    exact ⟨_, exec_mwr s r hq, memRead_memWrite_same _ _ _ _, rfl, frame_memWrite_loadDR1 s _ _ _ _⟩

end Sys2Proof.Machine
end

section
/-! The stack instructions: O38 to O41. A push is a load of DR1, one write to the stack cell at S and the increment of
S, and PUSHR then clears its register; POP is a load of DR1 and one write each to S and B (47_stack.md R200 to R202). -/
namespace Sys2Proof.Machine

/-! ### Steps of one, as integer arithmetic -/

theorem addByte_one_toNat (v : Byte) : (addByte v 1).toNat = (v.toNat + 1) % 256 := addByte_toNat v 1

theorem subByte_one_toNat (v : Byte) : ((subByte v 1).toNat : Int) = (v.toNat - 1 : Int) % 256 := subByte_toNat v 1

/-! ### Pushes within a frame -/

/-- A write to a stack cell that the frame lists stays within the frame. -/
theorem Frame.stackWrite {f : Footprint} {s t : State} (h : Frame f s t) {o : Byte} (ho : o ∈ f.stack) (v : Byte) :
    Frame f s (stackWrite t o v) :=
  { h with
    stack := fun o' hother => by
      have hne : o' ≠ o := fun e => hother (e ▸ ho)
      rw [stackRead_stackWrite, if_neg hne, h.stack o' hother] }

/-- A push stays within a frame that lists S and the stack cell at S. -/
theorem Frame.pushByte {f : Footprint} {s t : State} (h : Frame f s t) (hS : .S ∈ f.regs)
    (hcell : readReg t .S ∈ f.stack) (v : Byte) : Frame f s (pushByte t v) :=
  (h.stackWrite hcell v).writeReg hS _

/-! ### PUSHI, PUSHR and POP -/

section
variable (s : State)

theorem exec_pushi (v : Byte) : exec (.pushi v) s = .next (pushByte (loadDR1 s v) v) := rfl

/-- The register is cleared after the increment of S, S as the register included (92_eei_decisions.md D18). -/
theorem exec_pushr (r : Reg) :
    exec (.pushr r.toCode) s = .next (writeReg (pushByte (loadDR1 s r.toCode) (readReg s r)) r 0) :=
  withReg_toCode _ _ _

/-- The stack is read at the new S. -/
theorem exec_pop (o : Byte) :
    exec (.pop o) s =
      .next (writeReg (writeReg (loadDR1 s o) .S (readReg s .S - 1)) .B (stackRead s (readReg s .S - 1))) := rfl

end

/-- The wrap of S at 255 is the spec's decision (92_eei_decisions.md D10). -/
theorem readReg_S_pushByte_toNat (s : State) (v : Byte) :
    (readReg (pushByte s v) .S).toNat = ((readReg s .S).toNat + 1) % 256 := by
  rw [readReg_pushByte, if_pos rfl]
  exact addByte_one_toNat _

theorem stackRead_pushByte_same (s : State) (v : Byte) : stackRead (pushByte s v) (readReg s .S) = v := by simp

/-- Settles O38: the push writes the cell at S and S, and the frame lists only these two. -/
theorem pushImmediateWritesThenIncrements : Obligations.PushImmediateWritesThenIncrements := by
  intro v s
  have hframe : Frame { regs := [.S], stack := [readReg s .S] } s (pushByte (loadDR1 s v) v) :=
    ((Frame.refl _ s).loadDR1 v).pushByte (by simp) (by simp) v
  exact ⟨_, exec_pushi s v, stackRead_pushByte_same (loadDR1 s v) v, readReg_S_pushByte_toNat (loadDR1 s v) v, rfl,
    hframe⟩

/-- Settles O39: the clearing of the register touches no stack cell, and S only where S is the register. -/
theorem pushRegisterZeroesItsSource : Obligations.PushRegisterZeroesItsSource := by
  intro r s
  have hframe : Frame { regs := [.S, r], stack := [readReg s .S] } s
      (writeReg (pushByte (loadDR1 s r.toCode) (readReg s r)) r 0) :=
    (((Frame.refl _ s).loadDR1 _).pushByte (by simp) (by simp) _).writeReg (by simp) 0
  refine ⟨_, exec_pushr s r, stackRead_pushByte_same (loadDR1 s r.toCode) _, readReg_writeReg_same _ r 0, fun hr => ?_,
    rfl, hframe⟩
  rw [readReg_writeReg, if_neg hr.symm]
  exact readReg_S_pushByte_toNat (loadDR1 s r.toCode) _

/-- Settles O40: POP writes S and B, and reads the stack cell at the new S. -/
theorem popAlwaysIntoB : Obligations.PopAlwaysIntoB := by
  intro o s
  have hS (v w : Byte) : readReg (writeReg (writeReg (loadDR1 s o) .S v) .B w) .S = v := by simp
  have hframe (v w : Byte) : Frame { regs := [.S, .B] } s (writeReg (writeReg (loadDR1 s o) .S v) .B w) :=
    (((Frame.refl _ s).loadDR1 o).writeReg (by simp) v).writeReg (by simp) w
  refine ⟨_, exec_pop s o, ?_, ?_, rfl, hframe _ _⟩
  · rw [hS]
    exact subByte_one_toNat _
  · rw [hS, readReg_writeReg_same]

/-! ### A push and then a pop -/

/-- A pop in a state whose S is one past that of `s` brings S back, and B takes the cell there. -/
theorem exec_pop_of_S_succ {s t : State} (o : Byte) (hS : readReg t .S = readReg s .S + 1) :
    ∃ u, exec (.pop o) t = .next u ∧ readReg u .B = stackRead t (readReg s .S) ∧ readReg u .S = readReg s .S ∧
      ∀ q, q ≠ .S → q ≠ .B → readReg u q = readReg t q := by
  have hback : readReg t .S - 1 = readReg s .S := by rw [hS, BitVec.add_sub_cancel]
  refine ⟨_, exec_pop t o, ?_, ?_, fun q hqS hqB => ?_⟩
  · rw [hback, readReg_writeReg_same]
  · rw [readReg_writeReg, if_neg (by decide), readReg_writeReg_same, hback]
  · rw [readReg_writeReg, if_neg hqB, readReg_writeReg, if_neg hqS, readReg_loadDR1]

/-- Settles O41: both pushes leave S one higher and the byte in the cell below it. -/
theorem pushThenPop : Obligations.PushThenPop := by
  intro s o
  constructor
  · intro v
    obtain ⟨u, hu, hB, hS, -⟩ := exec_pop_of_S_succ (s := s) (t := pushByte (loadDR1 s v) v) o (by simp)
    exact ⟨_, u, exec_pushi s v, hu, hB.trans (stackRead_pushByte_same (loadDR1 s v) v), hS⟩
  · intro r hr
    obtain ⟨u, hu, hB, hS, hkept⟩ := exec_pop_of_S_succ (s := s)
      (t := writeReg (pushByte (loadDR1 s r.toCode) (readReg s r)) r 0) o (by simp [hr.symm])
    exact ⟨_, u, exec_pushr s r, hu, hB.trans (stackRead_pushByte_same (loadDR1 s r.toCode) _), hS,
      fun hrB => (hkept r hr hrB).trans (readReg_writeReg_same _ r 0)⟩

end Sys2Proof.Machine
end

section
/-! The increments and decrements: O42 and O43. Each is a load of DR1 and then one write of a byte one higher or one
lower: INCB and DECB to the memory cell at (BI, P), INCR and DECR to the register that DR1 names (48_incdec.md R210 to
R213). -/
namespace Sys2Proof.Machine

section
variable (s : State)

theorem exec_incb (o : Byte) :
    exec (.incb o) s = .next (memWrite (loadDR1 s o) (readReg s .BI) (readReg s .P)
      (addByte (memRead s (readReg s .BI) (readReg s .P)) 1)) := rfl

theorem exec_decb (o : Byte) :
    exec (.decb o) s = .next (memWrite (loadDR1 s o) (readReg s .BI) (readReg s .P)
      (subByte (memRead s (readReg s .BI) (readReg s .P)) 1)) := rfl

theorem exec_incr (r : Reg) :
    exec (.incr r.toCode) s = .next (writeReg (loadDR1 s r.toCode) r (addByte (readReg s r) 1)) :=
  withReg_toCode _ _ _

theorem exec_decr (r : Reg) :
    exec (.decr r.toCode) s = .next (writeReg (loadDR1 s r.toCode) r (subByte (readReg s r) 1)) :=
  withReg_toCode _ _ _

end

/-- Settles O42: the frame lists only the cell at (BI, P), so that BI and P stay. -/
theorem incrementAndDecrementTheByteAtP : Obligations.IncrementAndDecrementTheByteAtP := by
  intro o s
  constructor
  · refine ⟨_, exec_incb s o, ?_, rfl, frame_memWrite_loadDR1 s _ _ _ _⟩
    rw [memRead_memWrite_same, addByte_one_toNat]
  · refine ⟨_, exec_decb s o, ?_, rfl, frame_memWrite_loadDR1 s _ _ _ _⟩
    rw [memRead_memWrite_same, subByte_one_toNat]

/-- Settles O43: the frame lists only the named register. -/
theorem incrementAndDecrementARegister : Obligations.IncrementAndDecrementARegister := by
  intro r s
  constructor
  · refine ⟨_, exec_incr s r, ?_, rfl, frame_writeReg_loadDR1 s _ _ _⟩
    rw [readReg_writeReg_same, addByte_one_toNat]
  · refine ⟨_, exec_decr s r, ?_, rfl, frame_writeReg_loadDR1 s _ _ _⟩
    rw [readReg_writeReg_same, subByte_one_toNat]

end Sys2Proof.Machine
end

section
/-! The logic instructions and the bank switch: O44 to O47. Each is a load of DR1 and then one write to a register: the
binary operations to the one that DR2 names, NOT to the one that DR1 names, BSI and BSR to BI (49_logic_bankswitch.md
R220 to R228). -/
namespace Sys2Proof.Machine

/-! ### The byte operations bit by bit (93_implementation_defined.md K2) -/

section
variable (v w : Byte) (k : Nat)

theorem andByte_getLsbD : (andByte v w).getLsbD k = (v.getLsbD k && w.getLsbD k) := BitVec.getLsbD_and

theorem orByte_getLsbD : (orByte v w).getLsbD k = (v.getLsbD k || w.getLsbD k) := BitVec.getLsbD_or

theorem xorByte_getLsbD : (xorByte v w).getLsbD k = (v.getLsbD k ^^ w.getLsbD k) := BitVec.getLsbD_xor

theorem notByte_toNat : (notByte v).toNat = 255 - v.toNat := BitVec.toNat_not

end

/-! ### ANDI, ORI, XORI, ANDR, ORR and XORR -/

section
variable {s : State} {d : Reg} (hd : s.dr2 = d.toCode)
include hd

/-- A routine that resolves only the code in DR2. -/
theorem withReg_loadDR1_dr2 (x : Byte) (f : Reg → State) : withReg (loadDR1 s x) s.dr2 f = .next (f d) := by
  rw [hd, withReg_toCode]

theorem exec_andi (v : Byte) :
    exec (.andi v) s = .next (writeReg (loadDR1 s v) d (andByte (readReg s d) v)) :=
  withReg_loadDR1_dr2 hd v _

theorem exec_ori (v : Byte) :
    exec (.ori v) s = .next (writeReg (loadDR1 s v) d (orByte (readReg s d) v)) :=
  withReg_loadDR1_dr2 hd v _

theorem exec_xori (v : Byte) :
    exec (.xori v) s = .next (writeReg (loadDR1 s v) d (xorByte (readReg s d) v)) :=
  withReg_loadDR1_dr2 hd v _

theorem exec_andr (r : Reg) :
    exec (.andr r.toCode) s = .next (writeReg (loadDR1 s r.toCode) d (andByte (readReg s d) (readReg s r))) :=
  withRegs_valid _ _ _ _ rfl hd

theorem exec_orr (r : Reg) :
    exec (.orr r.toCode) s = .next (writeReg (loadDR1 s r.toCode) d (orByte (readReg s d) (readReg s r))) :=
  withRegs_valid _ _ _ _ rfl hd

theorem exec_xorr (r : Reg) :
    exec (.xorr r.toCode) s = .next (writeReg (loadDR1 s r.toCode) d (xorByte (readReg s d) (readReg s r))) :=
  withRegs_valid _ _ _ _ rfl hd

end

/-- Settles O44: the register that DR2 names receives the bitwise combination of itself and the operand byte. -/
theorem logicImmediateBitByBit : Obligations.LogicImmediateBitByBit := by
  intro v d s hd
  refine ⟨⟨_, exec_andi hd v, fun k => ?_, rfl, frame_writeReg_loadDR1 s _ _ _⟩,
    ⟨_, exec_ori hd v, fun k => ?_, rfl, frame_writeReg_loadDR1 s _ _ _⟩,
    ⟨_, exec_xori hd v, fun k => ?_, rfl, frame_writeReg_loadDR1 s _ _ _⟩⟩
  · rw [readReg_writeReg_same, andByte_getLsbD]
  · rw [readReg_writeReg_same, orByte_getLsbD]
  · rw [readReg_writeReg_same, xorByte_getLsbD]

/-- Settles O45: the register that DR2 names receives the bitwise combination of itself and the one that DR1 names. -/
theorem logicRegisterBitByBit : Obligations.LogicRegisterBitByBit := by
  intro r d s hd
  refine ⟨⟨_, exec_andr hd r, fun k => ?_, rfl, frame_writeReg_loadDR1 s _ _ _⟩,
    ⟨_, exec_orr hd r, fun k => ?_, rfl, frame_writeReg_loadDR1 s _ _ _⟩,
    ⟨_, exec_xorr hd r, fun k => ?_, rfl, frame_writeReg_loadDR1 s _ _ _⟩⟩
  · rw [readReg_writeReg_same, andByte_getLsbD]
  · rw [readReg_writeReg_same, orByte_getLsbD]
  · rw [readReg_writeReg_same, xorByte_getLsbD]

/-! ### NOT, BSI and BSR -/

section
variable (s : State)

theorem exec_not (r : Reg) :
    exec (.not r.toCode) s = .next (writeReg (loadDR1 s r.toCode) r (notByte (readReg s r))) :=
  withReg_toCode _ _ _

theorem exec_bsi (b : Byte) : exec (.bsi b) s = .next (writeReg (loadDR1 s b) .BI b) := rfl

theorem exec_bsr (r : Reg) :
    exec (.bsr r.toCode) s = .next (writeReg (loadDR1 s r.toCode) .BI (readReg s r)) :=
  withReg_toCode _ _ _

end

/-- Settles O46: the named register receives its complement, and the frame lists only that register. -/
theorem notComplementsARegister : Obligations.NotComplementsARegister := by
  intro r s
  refine ⟨_, exec_not s r, ?_, rfl, frame_writeReg_loadDR1 s _ _ _⟩
  rw [readReg_writeReg_same, notByte_toNat]

/-- Settles O47: both are one write to BI, and the frame lists only BI. -/
theorem bankSwitchWritesOnlyBI : Obligations.BankSwitchWritesOnlyBI := by
  constructor
  · intro b s
    exact ⟨_, exec_bsi s b, readReg_writeReg_same _ _ _, rfl, frame_writeReg_loadDR1 s _ _ _⟩
  · intro r s
    exact ⟨_, exec_bsr s r, readReg_writeReg_same _ _ _, rfl, frame_writeReg_loadDR1 s _ _ _⟩

end Sys2Proof.Machine
end

section
/-! The exceptional ends of an instruction and of a cycle: O11, O12, O14, O23 and O24. InvalidRegister, the end of the
program and the yield point (60_exceptions.md R240 to R262). -/
namespace Sys2Proof.Machine

/-! ### InvalidRegister -/

/-- The code that is reported is DR1's, if invalid, and else DR2's. -/
theorem Instr.faultCode_eq_some_iff (i : Instr) (dr2 c : Byte) :
    Instr.faultCode i dr2 = some c ↔
      (i.wf = false ∧ i.operandByte = c) ∨ (i.wf = true ∧ i.latchWf dr2 = false ∧ dr2 = c) := by
  unfold Instr.faultCode
  cases i.wf <;> cases i.latchWf dr2 <;> simp

/-- A two-code routine faults on the first invalid code, DR1's before DR2's. -/
theorem withRegs_invalid {s : State} {c : Byte} (f : Reg → Reg → State)
    (h : (validCode s.dr1 = false ∧ s.dr1 = c) ∨ (validCode s.dr1 = true ∧ validCode s.dr2 = false ∧ s.dr2 = c)) :
    withRegs s f = .next (raiseInvalidRegister s c) := by
  rcases h with ⟨h1, rfl⟩ | ⟨h1, h2, rfl⟩
  · exact withRegs_invalid_first s f h1
  · exact withRegs_invalid_second s f h1 h2

/-- An instruction with an invalid code raises InvalidRegister and does nothing but load DR1: one case per operand form
of 30_encoding.md R99. -/
theorem exec_of_faultCode {i : Instr} {s : State} {c : Byte} (h : Instr.faultCode i s.dr2 = some c) :
    exec i s = .next (raiseInvalidRegister (loadDR1 s i.operandByte) c) := by
  rw [Instr.faultCode_eq_some_iff] at h
  cases i with
  -- no operand is a register code
  | nop | soi | sor | addi | subi | jmpi | jei | jnei | pushi | pop | incb | decb | bsi =>
    simp [Instr.wf, Instr.latchWf, Instr.dr1Role, Instr.dr2Role] at h
  -- DR1 holds a code
  | addr x | subr x | ldi x | wrp x | rdp x | lsl x | lsr x | cmpi x | mri x | mwi x | pushr x | incr x | decr x | not x
  | bsr x =>
    obtain ⟨hbad, rfl⟩ := h.resolve_right fun hlatch => nomatch hlatch.2.1
    exact withReg_invalid _ _ _ hbad
  -- DR2 holds a code
  | andi x | ori x | xori x =>
    obtain ⟨-, hbad, rfl⟩ := h.resolve_left fun hown => nomatch hown.1
    exact withReg_invalid _ _ _ hbad
  -- both latches hold a code
  | cpy x | jmpr x | jer x | jner x | cmpr x | mrr x | mwr x | andr x | orr x | xorr x =>
    exact withRegs_invalid (s := loadDR1 s x) _ h

/-- The change of the host's part that makes RUN, HALT_REASON and FAULT what they are in `s`. -/
def runOf (s : State) (hs : HostStatus) : HostStatus :=
  { hs with run := s.run, haltReason := s.haltReason, fault := s.fault }

theorem mapHost_runOf_self (s : State) : mapHost (runOf s) s = s := rfl

/-- Without an invalid code an instruction leaves RUN, HALT_REASON and FAULT alone: it commutes with `runOf s`, which
changes nothing in `s`, so that it changes nothing in the next state either. -/
theorem exec_keeps_run_of_no_fault {i : Instr} {s t : State} (hnone : Instr.faultCode i s.dr2 = none)
    (h : exec i s = .next t) : t.run = s.run ∧ t.haltReason = s.haltReason ∧ t.fault = s.fault := by
  have hcomm := exec_mapHost (runOf s) i s (.inl hnone)
  rw [mapHost_runOf_self, h, mapNext_next] at hcomm
  have hsame : t = mapHost (runOf s) t := Host.Outcome.next.inj hcomm
  rw [hsame]
  exact ⟨rfl, rfl, rfl⟩

/-- Settles O23: `raiseInvalidRegister` after the load of DR1 is the state that the statement writes out. -/
theorem invalidRegisterExactlyAsListed : Obligations.InvalidRegisterExactlyAsListed :=
  ⟨fun _ _ _ => exec_of_faultCode, fun _ _ _ => exec_keeps_run_of_no_fault⟩

/-- Settles O24: the cycle ends as the fault left the state, which had JF cleared and PC rolled over. -/
theorem aFaultingCycleStopsWithThePcOfTheFault : Obligations.AFaultingCycleStopsWithThePcOfTheFault := by
  intro m s i c hfetch hdec hfault
  have hexec : exec i (beginCycle s) = .next (raiseInvalidRegister (loadDR1 (beginCycle s) i.operandByte) c) :=
    exec_of_faultCode hfault
  rw [operandByte_of_decodePair hdec] at hexec
  exact stepWith_of_exec hfetch hdec hexec

/-! ### The end of the program and the next state of a step -/

/-- Settles O11: the composite PC is bank * 256 + address. -/
theorem endOfProgramHalts : Obligations.EndOfProgramHalts := stepWith_atEnd

/-- Settles O14: the four forms of a step, and `exec_exists_next` for the one that runs an instruction. -/
theorem everyStepAnswersANextState : Obligations.EveryStepAnswersANextState := by
  refine ⟨fun m s => ?_, exec_exists_next⟩
  rcases stepWith_cases m s with ⟨-, e⟩ | ⟨-, -, e⟩ | ⟨hrun, hlt, -⟩
  · exact ⟨_, e⟩
  · exact ⟨_, e⟩
  · cases hdec : decodePair m (fetchedOpcode s) (fetchedOperand s) with
    | some i =>
      obtain ⟨u, hu⟩ := exec_exists_next i (beginCycle s)
      exact ⟨_, stepWith_of_exec ⟨hrun, hlt⟩ hdec hu⟩
    | none => exact ⟨_, stepWith_of_unassigned ⟨hrun, hlt⟩ (decodePair_eq_none_iff.mp hdec)⟩

/-! ### The yield point -/

/-- No instruction reads or takes the coming quit bits. -/
theorem exec_presentQuit (bits : List Bool) {i : Instr} {s t : State} (h : exec i s = .next t) :
    exec i (presentQuit bits s) = .next (presentQuit bits t) := by
  have hcomm := exec_mapHost (fun hs => { hs with quitSamples := bits }) i s (.inr fun _ _ => rfl)
  rw [h] at hcomm
  exact hcomm

theorem exec_keeps_quitSamples {i : Instr} {s t : State} (h : exec i s = .next t) : t.quitSamples = s.quitSamples := by
  cases exec_effect h <;> rfl

theorem advance_presentQuit (bits : List Bool) (t : State) :
    advance (presentQuit bits t) = presentQuit bits (advance t) := by
  unfold advance
  rw [presentQuit_jf]
  split <;> rfl

theorem yieldPoint_of_no_bits {s : State} (h : s.quitSamples = []) : yieldPoint s = s := by
  simp [yieldPoint, h]

/-- What the outcome `t` of a cycle without quit bits becomes when the host presents `bits`: a completed instruction
samples the first one, a HALTED machine none. -/
def sampleQuit (bits : List Bool) (t : State) : State :=
  if t.run = .running then yieldPoint (presentQuit bits t) else presentQuit bits t

theorem sampleQuit_of_running (bits : List Bool) {t : State} (h : t.run = .running) :
    sampleQuit bits t = yieldPoint (presentQuit bits t) := if_pos h

theorem sampleQuit_of_halted (bits : List Bool) {t : State} (h : t.run = .halted) :
    sampleQuit bits t = presentQuit bits t := if_neg (by simp [h])

/-- Only the yield point of a cycle takes quit bits, and only after a completed instruction. -/
theorem endCycle_presentQuit (bits : List Bool) {u : State} (hquit : u.quitSamples = []) :
    endCycle (presentQuit bits u) = sampleQuit bits (endCycle u) := by
  cases hrun : u.run with
  | halted =>
    have hend : endCycle u = u := by simp [endCycle_eq_ite, hrun]
    rw [hend, sampleQuit_of_halted bits hrun]
    simp [endCycle_eq_ite, hrun]
  | running =>
    have hend : endCycle u = advance u := by simp [endCycle_eq_ite, hrun, yieldPoint_of_no_bits, hquit]
    rw [hend, sampleQuit_of_running bits (by simp [hrun]), ← advance_presentQuit]
    simp [endCycle_eq_ite, hrun]

/-- A step with quit bits, from the step without: one case per form of a step. -/
theorem stepWith_presentQuit (bits : List Bool) {m : OpcodeMap} {s t : State} (hquit : s.quitSamples = [])
    (hstep : stepWith m s = .next t) : stepWith m (presentQuit bits s) = .next (sampleQuit bits t) := by
  cases stepTo_of_stepWith hstep with
  | halted hrun =>
    rw [sampleQuit_of_halted bits hrun]
    exact stepWith_halted m (presentQuit bits s) hrun
  | ended hrun hend =>
    rw [sampleQuit_of_halted bits (haltWith_run s .endOfProgram)]
    exact stepWith_atEnd m (presentQuit bits s) hrun hend
  | ran hfetch _ hdec hexec =>
    rw [← endCycle_presentQuit bits ((exec_keeps_quitSamples hexec).trans hquit)]
    exact stepWith_of_exec (s := presentQuit bits s) hfetch hdec (exec_presentQuit bits hexec)
  | unknown hfetch hop =>
    rw [← endCycle_presentQuit bits (u := unknownOpcode (beginCycle s) _) hquit]
    exact stepWith_of_unassigned (s := presentQuit bits s) hfetch hop

/-- Settles O12: what the yield point makes of a bit 0 and of a bit 1. -/
theorem quitIsSampledOncePerCompletedInstruction : Obligations.QuitIsSampledOncePerCompletedInstruction := by
  intro m s t hstep
  have hpresent (bits : List Bool) :
      stepWith m { s with quitSamples := bits } = .next (sampleQuit bits t) :=
    stepWith_presentQuit bits (s := { s with quitSamples := [] }) rfl hstep
  constructor
  · intro hrun rest
    rw [hpresent, hpresent, sampleQuit_of_running _ hrun, sampleQuit_of_running _ hrun]
    exact ⟨rfl, rfl⟩
  · intro hhalt bits
    rw [hpresent, sampleQuit_of_halted bits hhalt]
    rfl

end Sys2Proof.Machine
end

section
/-! Reset and load: O15, O18, O58 and O59 (70_reset_and_hazards.md R280 to R288). -/
namespace Sys2Proof.Machine

/-! ### Reset and the invariant -/

/-- Settles O15: every field of the reset state is written out in the model, and an empty memory reads as 0. -/
theorem resetLeavesEverythingZeroAndHalted : Obligations.ResetLeavesEverythingZeroAndHalted := by
  have hreg (r : Reg) : readReg State.reset r = 0 := by cases r <;> rfl
  exact ⟨hreg, fun _ _ => rfl, fun _ => rfl, rfl, rfl, rfl, rfl, rfl, rfl, rfl, rfl, rfl, rfl⟩

/-- Settles O18, by the lemmas for the three host operations. -/
theorem hostOperationsKeepTheInvariant : Obligations.HostOperationsKeepTheInvariant :=
  fun _ _ _ => inv_hostStep

/-! ### Load -/

/-- The load of an image that fits, right after reset. -/
theorem load_complete_hostReset {image : List Byte} (hlen : image.length ≤ 65536) (s : State) :
    load (.complete image) (hostReset s) = .next { hostReset s with
      mem := writeImage [] 0 image, progLen := image.length, run := .running, loadAttempted := true } := by
  have hwf : imageWf image = true := (imageWf_iff image).mpr hlen
  simp only [load, justReset_hostReset, hwf, cond_true]
  rfl

/-- Byte k of an image that fits is at key k, and past the image every cell reads 0. -/
theorem read_writeImage_nil {image : List Byte} (hlen : image.length ≤ 65536) (k : Nat) :
    Memory.read (writeImage [] 0 image) k = image[k]?.getD 0 := by
  rw [writeImage_read [] 0 image (by omega)]
  by_cases hk : k < image.length
  · simp [hk]
  · simp [hk, Memory.read, blankByte]

/-- Settles O58: the cell of byte i has the key i, and what is not memory is written out by the load. -/
theorem loadPlacesTheImage : Obligations.LoadPlacesTheImage := by
  intro image s hlen
  refine ⟨_, load_complete_hostReset hlen s, fun i v hi => ?_, fun b a hpast => ?_, rfl⟩
  · have hlt : i < image.length := (List.getElem?_eq_some_iff.mp hi).1
    have hkey : cellKey (BitVec.ofNat 8 (i / 256)) (BitVec.ofNat 8 (i % 256)) = i :=
      cellKey_ofNat i (Nat.lt_of_lt_of_le hlt hlen)
    rw [memRead, hkey, read_writeImage_nil hlen, hi, Option.getD_some]
  · have hnone : image[cellKey b a]? = none := List.getElem?_eq_none hpast
    rw [memRead, read_writeImage_nil hlen, hnone, Option.getD_none]

theorem load_tooLong {image : List Byte} (hlen : 65536 < image.length) (s : State) :
    load (.complete image) (hostReset s) = .refused .imageTooLong := by
  have hwf : imageWf image = false := (imageWf_false_iff image).mpr hlen
  simp only [load, justReset_hostReset, hwf, cond_true, cond_false]

/-- An accepted load is recorded, whether it succeeds or fails. -/
theorem loadAttempted_of_load {src : ImageSource} {s t : State} (h : load src s = .next t) :
    t.loadAttempted = true := by
  rcases load_cases src s with ⟨_, -, -, -, e⟩ | ⟨_, -, -, -, e⟩ | ⟨_, e⟩ <;> cases e.symm.trans h <;> rfl

/-- After an accepted load every load is refused. -/
theorem load_refused_after_load {src : ImageSource} {s t : State} (h : load src s = .next t) (src' : ImageSource) :
    load src' t = .refused .loadNotAfterReset :=
  load_refused (justReset_loadAttempted (loadAttempted_of_load h)) src'

/-- A load that fails leaves the machine HALTED, with no reason and PROG_LEN 0, as reset left it. -/
theorem halted_of_load_ioFailure {part : List Byte} {s t : State} (h : load (.ioFailure part) s = .next t) :
    t.run = .halted ∧ t.haltReason = .none ∧ t.progLen = 0 := by
  rcases load_cases (.ioFailure part) s with ⟨_, hsrc, -⟩ | ⟨_, -, hj, -, e⟩ | ⟨_, e⟩
  · cases hsrc
  · cases e.symm.trans h
    have hs : s = hostReset s := (justReset_iff s).mp hj
    exact ⟨congrArg State.run hs, congrArg State.haltReason hs, congrArg State.progLen hs⟩
  · cases e.symm.trans h

/-- Settles O59: loads are told apart by the record of an earlier one, by RUN and by the length of the image. -/
theorem loadRefusedOrFailed : Obligations.LoadRefusedOrFailed := by
  refine ⟨fun image s hlen => load_tooLong hlen s, fun src src' s t bytes _ h => load_refused_after_load h src',
    fun src s hrun => load_refused (justReset_running hrun) src, fun part s t h => ?_⟩
  obtain ⟨hrun, hreason, hlen⟩ := halted_of_load_ioFailure h
  exact ⟨hrun, hreason, hlen, stepWith_halted .default t hrun, load_refused_after_load h,
    fun image himage => ⟨_, load_complete_hostReset himage t, rfl⟩⟩

end Sys2Proof.Machine
end
